-- ==== Sys2Proof/Word.lean ====
section
/-! DEFINITION. The word types of the machine (00_scope.md R6, R4; 30_encoding.md R91). -/

namespace Sys2Proof

/-- Eight bits: a memory byte, a general register, a timer, an immediate `NN` (R6 `REG_W`). -/
abbrev Byte := BitVec 8

/-- Sixteen bits: an instruction word, `I`, `PC`, a stack entry (R6 `INSTR_W`, `I_W`, `PC_W`). -/
abbrev Word := BitVec 16

/-- The twelve-bit address operand `NNN` (R91). -/
abbrev Addr := BitVec 12

/-- Four raw bits of an instruction word that the decoder ignores (R98). -/
abbrev Nibble := BitVec 4

/-- A host-visible colour (10_state.md R30); no rule gives its bytes a meaning. -/
abbrev Color := BitVec 32

/-- The index of a general register, V0 to VF (10_state.md R20). -/
abbrev Reg := Fin 16

end Sys2Proof
end

