-- ==== Sys2Proof/Config.lean ====
section
/-! DEFINITION. What an implementation fixes and what the spec leaves open (00_scope.md R7, R8).
The open parameter `FONT` is an argument of the machine (Machine/State.lean `State.resetWith`,
`Memory.font`), and its default stands in Machine/Font.lean. -/

namespace Sys2Proof

/-- Instructions per tick at power-on: "integer, default 11" (R7, 10_state.md R34). -/
def Config.defaultIpt : Nat := 11

/-- The environment's random bytes (R8 `rnd`, 45_engine_tick.md R245): the n-th byte drawn.
DESIGN CHOICE (log 10; safe): a free value, nothing constrains it. -/
opaque Config.freeDraw : Nat → Byte

/-- `COLOR_OFF_DEFAULT` (R8): open, no value given. DESIGN CHOICE (log 9; safe). -/
opaque Config.colorOffDefault : Color

/-- A free colour from which `COLOR_ON_DEFAULT` is made (log 9). -/
opaque Config.colorOnDraw : Color

/-- `COLOR_ON_DEFAULT` (R8): open but for "unequal". Every colour other than
`Config.colorOffDefault` is possible. DESIGN CHOICE (log 9; safe). -/
def Config.colorOnDefault : Color :=
  if Config.colorOnDraw = Config.colorOffDefault then ~~~Config.colorOffDefault
  else Config.colorOnDraw

end Sys2Proof
end

