-- ==== Sys2Proof/Syntax.lean ====
section
/-! DEFINITION. The 34 instructions (30_encoding.md R96), one constructor per row of
spec/opcode_table.json. A nibble the decoder ignores (R98) is kept as a raw operand, so that an
instruction determines its word and a latched `FAULT_WORD` is the word that was fetched. -/

namespace Sys2Proof

/-- An instruction. Register operands are `x` and `y`, `nn` is the immediate byte, `nnn` the
address, `n` the sprite height (a count, R93), `ign` an ignored nibble (R98). -/
inductive Instr where
  /-- `CLS` (43_display.md R193); the X nibble is ignored. -/
  | cls (ign : Nibble)
  /-- `RET` (40_control_flow.md R121); the X nibble is ignored. -/
  | ret (ign : Nibble)
  /-- `JP addr` (R123). -/
  | jp (nnn : Addr)
  /-- `CALL addr` (R122). -/
  | call (nnn : Addr)
  /-- `SE Vx, byte` (R124). -/
  | seImm (x : Reg) (nn : Byte)
  /-- `SNE Vx, byte` (R125). -/
  | sneImm (x : Reg) (nn : Byte)
  /-- `SE Vx, Vy` (R126); the N nibble is ignored. -/
  | seReg (x y : Reg) (ign : Nibble)
  /-- `LD Vx, byte` (41_alu.md R143). -/
  | ldImm (x : Reg) (nn : Byte)
  /-- `ADD Vx, byte` (R144). -/
  | addImm (x : Reg) (nn : Byte)
  /-- `LD Vx, Vy` (R145). -/
  | ldReg (x y : Reg)
  /-- `OR Vx, Vy` (R146). -/
  | or (x y : Reg)
  /-- `AND Vx, Vy` (R147). -/
  | and (x y : Reg)
  /-- `XOR Vx, Vy` (R148). -/
  | xor (x y : Reg)
  /-- `ADD Vx, Vy` (R149). -/
  | addReg (x y : Reg)
  /-- `SUB Vx, Vy` (R150). -/
  | sub (x y : Reg)
  /-- `SHR Vx` (R151); Y is present in the word and ignored. -/
  | shr (x y : Reg)
  /-- `SUBN Vx, Vy` (R152). -/
  | subn (x y : Reg)
  /-- `SHL Vx` (R153); Y is present in the word and ignored. -/
  | shl (x y : Reg)
  /-- `SNE Vx, Vy` (40_control_flow.md R127); the N nibble is ignored. -/
  | sneReg (x y : Reg) (ign : Nibble)
  /-- `LD I, addr` (42_index_memory.md R172). -/
  | ldI (nnn : Addr)
  /-- `JP V0, addr` (40_control_flow.md R129). -/
  | jpV0 (nnn : Addr)
  /-- `RND Vx, byte` (41_alu.md R154). -/
  | rnd (x : Reg) (nn : Byte)
  /-- `DRW Vx, Vy, n` (43_display.md R194). -/
  | drw (x y : Reg) (n : Nat)
  /-- `SKP Vx` (44_keypad_timers.md R212). -/
  | skp (x : Reg)
  /-- `SKNP Vx` (R213). -/
  | sknp (x : Reg)
  /-- `LD Vx, DT` (R214). -/
  | ldVxDt (x : Reg)
  /-- `LD Vx, K` (R215). -/
  | ldVxK (x : Reg)
  /-- `LD DT, Vx` (R216). -/
  | ldDtVx (x : Reg)
  /-- `LD ST, Vx` (R217). -/
  | ldStVx (x : Reg)
  /-- `ADD I, Vx` (42_index_memory.md R173). -/
  | addI (x : Reg)
  /-- `LD F, Vx` (R174). -/
  | ldF (x : Reg)
  /-- `LD B, Vx` (R175). -/
  | ldB (x : Reg)
  /-- `LD [I], Vx` (R176). -/
  | ldMemVx (x : Reg)
  /-- `LD Vx, [I]` (R177). -/
  | ldVxMem (x : Reg)
deriving DecidableEq, Repr

end Sys2Proof
end

