-- ==== Sys2Proof/Decode.lean ====
section
/-! DEFINITION. The decoder, total on any bytes and rejecting by name (30_encoding.md R94 to R99),
and after it the encoder, written from the same table (R96). The opcode numbers are PRESUMED by the
spec itself (93_implementation_defined.md G1; log 13). -/

namespace Sys2Proof

/-- Why bytes are no instruction (R97: exactly four families have `Invalid` words). -/
inductive DecodeError where
  /-- Family 0, low byte neither 0xE0 nor 0xEE. -/
  | invalidFamily0
  /-- Family 8, low nibble one of 8 to 0xD or 0xF. -/
  | invalidFamily8
  /-- Family 0xE, low byte neither 0x9E nor 0xA1. -/
  | invalidFamilyE
  /-- Family 0xF, low byte none of the nine selectors. -/
  | invalidFamilyF
  /-- Fewer than the two bytes of an instruction word (R90). -/
  | truncated
deriving DecidableEq, Repr

/-- `w[hi:lo]`: the bit slice read as an unsigned number (00_scope.md section 4). -/
def bits (w : Word) (hi lo : Nat) : Nat := w.toNat / 2 ^ lo % 2 ^ (hi + 1 - lo)

/-- `OP = w[15:12]` (R91). -/
def fieldOp (w : Word) : Nat := bits w 15 12

/-- `X = w[11:8]` as a register index (R91). -/
def fieldX (w : Word) : Reg := Fin.ofNat 16 (bits w 11 8)

/-- `Y = w[7:4]` as a register index (R91). -/
def fieldY (w : Word) : Reg := Fin.ofNat 16 (bits w 7 4)

/-- `N = w[3:0]` as a count (R91, R93). -/
def fieldN (w : Word) : Nat := bits w 3 0

/-- `NN = w[7:0]` (R91). -/
def fieldNN (w : Word) : Byte := BitVec.ofNat 8 (bits w 7 0)

/-- `NNN = w[11:0]` (R91). -/
def fieldNNN (w : Word) : Addr := BitVec.ofNat 12 (bits w 11 0)

/-- The raw nibble in the place of X (R98a). -/
def rawX (w : Word) : Nibble := BitVec.ofNat 4 (bits w 11 8)

/-- The raw nibble in the place of N (R98b). -/
def rawN (w : Word) : Nibble := BitVec.ofNat 4 (bits w 3 0)

/-- Family 0: the low byte selects (R95, R96). -/
def decodeFamily0 (w : Word) : Except DecodeError Instr :=
  match bits w 7 0 with
  | 0xE0 => .ok (.cls (rawX w))
  | 0xEE => .ok (.ret (rawX w))
  | _ => .error .invalidFamily0

/-- Family 8: the low nibble selects (R95, R96). -/
def decodeFamily8 (w : Word) : Except DecodeError Instr :=
  match bits w 3 0 with
  | 0x0 => .ok (.ldReg (fieldX w) (fieldY w))
  | 0x1 => .ok (.or (fieldX w) (fieldY w))
  | 0x2 => .ok (.and (fieldX w) (fieldY w))
  | 0x3 => .ok (.xor (fieldX w) (fieldY w))
  | 0x4 => .ok (.addReg (fieldX w) (fieldY w))
  | 0x5 => .ok (.sub (fieldX w) (fieldY w))
  | 0x6 => .ok (.shr (fieldX w) (fieldY w))
  | 0x7 => .ok (.subn (fieldX w) (fieldY w))
  | 0xE => .ok (.shl (fieldX w) (fieldY w))
  | _ => .error .invalidFamily8

/-- Family 0xE: the low byte selects (R95, R96). -/
def decodeFamilyE (w : Word) : Except DecodeError Instr :=
  match bits w 7 0 with
  | 0x9E => .ok (.skp (fieldX w))
  | 0xA1 => .ok (.sknp (fieldX w))
  | _ => .error .invalidFamilyE

/-- Family 0xF: the low byte selects (R95, R96). -/
def decodeFamilyF (w : Word) : Except DecodeError Instr :=
  match bits w 7 0 with
  | 0x07 => .ok (.ldVxDt (fieldX w))
  | 0x0A => .ok (.ldVxK (fieldX w))
  | 0x15 => .ok (.ldDtVx (fieldX w))
  | 0x18 => .ok (.ldStVx (fieldX w))
  | 0x1E => .ok (.addI (fieldX w))
  | 0x29 => .ok (.ldF (fieldX w))
  | 0x33 => .ok (.ldB (fieldX w))
  | 0x55 => .ok (.ldMemVx (fieldX w))
  | 0x65 => .ok (.ldVxMem (fieldX w))
  | _ => .error .invalidFamilyF

/-- The decoder of R99: the high nibble is the primary selector (R94). `OP` is a 4-bit field, so
the last arm is `0xF`. -/
def decode (w : Word) : Except DecodeError Instr :=
  match fieldOp w with
  | 0x0 => decodeFamily0 w
  | 0x1 => .ok (.jp (fieldNNN w))
  | 0x2 => .ok (.call (fieldNNN w))
  | 0x3 => .ok (.seImm (fieldX w) (fieldNN w))
  | 0x4 => .ok (.sneImm (fieldX w) (fieldNN w))
  | 0x5 => .ok (.seReg (fieldX w) (fieldY w) (rawN w))
  | 0x6 => .ok (.ldImm (fieldX w) (fieldNN w))
  | 0x7 => .ok (.addImm (fieldX w) (fieldNN w))
  | 0x8 => decodeFamily8 w
  | 0x9 => .ok (.sneReg (fieldX w) (fieldY w) (rawN w))
  | 0xA => .ok (.ldI (fieldNNN w))
  | 0xB => .ok (.jpV0 (fieldNNN w))
  | 0xC => .ok (.rnd (fieldX w) (fieldNN w))
  | 0xD => .ok (.drw (fieldX w) (fieldY w) (fieldN w))
  | 0xE => decodeFamilyE w
  | _ => decodeFamilyF w

/-- Two bytes as a big-endian word: the byte at the lower address in bits 15 to 8
(20_memory.md R66). -/
def wordOfBytes (hi lo : Byte) : Word := BitVec.ofNat 16 (hi.toNat * 256 + lo.toNat)

/-- Decode the instruction at the front of a list of bytes and give back the rest: every
instruction is one big-endian word (R90, R101). -/
def decodeBytes : List Byte → Except DecodeError (Instr × List Byte)
  | hi :: lo :: rest =>
    match decode (wordOfBytes hi lo) with
    | .ok i => .ok (i, rest)
    | .error e => .error e
  | _ => .error .truncated

/-- The high byte of a word: `w[15:8]`. -/
def highByte (w : Word) : Byte := BitVec.ofNat 8 (bits w 15 8)

/-- The low byte of a word: `w[7:0]`. -/
def lowByte (w : Word) : Byte := BitVec.ofNat 8 (bits w 7 0)

/-- The word of a row of spec/opcode_table.json, of whose bits only the lowest `nbits` are given. -/
def tableWord (nbits w : Nat) : Word := BitVec.ofNat 16 (w % 2 ^ nbits)

/-- What the decoder reads from an instruction whose bits are numbered as
spec/opcode_table.json numbers them. -/
def decodeTableWord (nbits w : Nat) : Option Instr :=
  match decodeBytes [highByte (tableWord nbits w), lowByte (tableWord nbits w)] with
  | .ok (i, _) => some i
  | .error _ => none

/-- Format `NNN`: `OP ++ NNN` (R92). -/
def packNNN (op : Nat) (nnn : Addr) : Word := BitVec.ofNat 16 (op * 4096 + nnn.toNat)

/-- Formats `XNN`, `XSEL` and `FIXED`: `OP ++ X ++ NN` (R92). -/
def packXNN (op x nn : Nat) : Word := BitVec.ofNat 16 (op * 4096 + x * 256 + nn)

/-- Formats `XY` and `XYN`: `OP ++ X ++ Y ++ N` (R92). -/
def packXYN (op x y n : Nat) : Word := BitVec.ofNat 16 (op * 4096 + x * 256 + y * 16 + n)

/-- The word of an instruction (R92, R96). -/
def encode : Instr → Word
  | .cls ign => packXNN 0x0 ign.toNat 0xE0
  | .ret ign => packXNN 0x0 ign.toNat 0xEE
  | .jp nnn => packNNN 0x1 nnn
  | .call nnn => packNNN 0x2 nnn
  | .seImm x nn => packXNN 0x3 x nn.toNat
  | .sneImm x nn => packXNN 0x4 x nn.toNat
  | .seReg x y ign => packXYN 0x5 x y ign.toNat
  | .ldImm x nn => packXNN 0x6 x nn.toNat
  | .addImm x nn => packXNN 0x7 x nn.toNat
  | .ldReg x y => packXYN 0x8 x y 0x0
  | .or x y => packXYN 0x8 x y 0x1
  | .and x y => packXYN 0x8 x y 0x2
  | .xor x y => packXYN 0x8 x y 0x3
  | .addReg x y => packXYN 0x8 x y 0x4
  | .sub x y => packXYN 0x8 x y 0x5
  | .shr x y => packXYN 0x8 x y 0x6
  | .subn x y => packXYN 0x8 x y 0x7
  | .shl x y => packXYN 0x8 x y 0xE
  | .sneReg x y ign => packXYN 0x9 x y ign.toNat
  | .ldI nnn => packNNN 0xA nnn
  | .jpV0 nnn => packNNN 0xB nnn
  | .rnd x nn => packXNN 0xC x nn.toNat
  | .drw x y n => packXYN 0xD x y (n % 16)
  | .skp x => packXNN 0xE x 0x9E
  | .sknp x => packXNN 0xE x 0xA1
  | .ldVxDt x => packXNN 0xF x 0x07
  | .ldVxK x => packXNN 0xF x 0x0A
  | .ldDtVx x => packXNN 0xF x 0x15
  | .ldStVx x => packXNN 0xF x 0x18
  | .addI x => packXNN 0xF x 0x1E
  | .ldF x => packXNN 0xF x 0x29
  | .ldB x => packXNN 0xF x 0x33
  | .ldMemVx x => packXNN 0xF x 0x55
  | .ldVxMem x => packXNN 0xF x 0x65

/-- A row of the opcode table: a word `w` selects it iff `w AND mask = pattern` (R96). -/
structure OpcodeRow where
  mask : Word
  pattern : Word
deriving DecidableEq, Repr

/-- The row of R96 an instruction stands in, as the table prints it. -/
def Instr.row : Instr → OpcodeRow
  | .cls _ => ⟨0xF0FF, 0x00E0⟩
  | .ret _ => ⟨0xF0FF, 0x00EE⟩
  | .jp _ => ⟨0xF000, 0x1000⟩
  | .call _ => ⟨0xF000, 0x2000⟩
  | .seImm _ _ => ⟨0xF000, 0x3000⟩
  | .sneImm _ _ => ⟨0xF000, 0x4000⟩
  | .seReg _ _ _ => ⟨0xF000, 0x5000⟩
  | .ldImm _ _ => ⟨0xF000, 0x6000⟩
  | .addImm _ _ => ⟨0xF000, 0x7000⟩
  | .ldReg _ _ => ⟨0xF00F, 0x8000⟩
  | .or _ _ => ⟨0xF00F, 0x8001⟩
  | .and _ _ => ⟨0xF00F, 0x8002⟩
  | .xor _ _ => ⟨0xF00F, 0x8003⟩
  | .addReg _ _ => ⟨0xF00F, 0x8004⟩
  | .sub _ _ => ⟨0xF00F, 0x8005⟩
  | .shr _ _ => ⟨0xF00F, 0x8006⟩
  | .subn _ _ => ⟨0xF00F, 0x8007⟩
  | .shl _ _ => ⟨0xF00F, 0x800E⟩
  | .sneReg _ _ _ => ⟨0xF000, 0x9000⟩
  | .ldI _ => ⟨0xF000, 0xA000⟩
  | .jpV0 _ => ⟨0xF000, 0xB000⟩
  | .rnd _ _ => ⟨0xF000, 0xC000⟩
  | .drw _ _ _ => ⟨0xF000, 0xD000⟩
  | .skp _ => ⟨0xF0FF, 0xE09E⟩
  | .sknp _ => ⟨0xF0FF, 0xE0A1⟩
  | .ldVxDt _ => ⟨0xF0FF, 0xF007⟩
  | .ldVxK _ => ⟨0xF0FF, 0xF00A⟩
  | .ldDtVx _ => ⟨0xF0FF, 0xF015⟩
  | .ldStVx _ => ⟨0xF0FF, 0xF018⟩
  | .addI _ => ⟨0xF0FF, 0xF01E⟩
  | .ldF _ => ⟨0xF0FF, 0xF029⟩
  | .ldB _ => ⟨0xF0FF, 0xF033⟩
  | .ldMemVx _ => ⟨0xF0FF, 0xF055⟩
  | .ldVxMem _ => ⟨0xF0FF, 0xF065⟩

end Sys2Proof
end

