-- ==== Sys2Proof/Machine/Font.lean ====
section
/-! DEFINITION. The open parameter `FONT` (00_scope.md R8) and its default (20_memory.md R62). -/

namespace Sys2Proof.Machine

/-- A value of `FONT`: 80 bytes, glyph `d` at `5 * d` (R8, R61). Any 80 bytes are one. -/
abbrev Font := Vector Byte 80

/-- The table of R62, row by row. PRESUMED (log 8; unsafe): the spec supplies it from general
knowledge, only its size and place come from the source. -/
def defaultFontBytes : List Byte :=
  [0xF0, 0x90, 0x90, 0x90, 0xF0] ++ -- 0
  [0x20, 0x60, 0x20, 0x20, 0x70] ++ -- 1
  [0xF0, 0x10, 0xF0, 0x80, 0xF0] ++ -- 2
  [0xF0, 0x10, 0xF0, 0x10, 0xF0] ++ -- 3
  [0x90, 0x90, 0xF0, 0x10, 0x10] ++ -- 4
  [0xF0, 0x80, 0xF0, 0x10, 0xF0] ++ -- 5
  [0xF0, 0x80, 0xF0, 0x90, 0xF0] ++ -- 6
  [0xF0, 0x10, 0x20, 0x40, 0x40] ++ -- 7
  [0xF0, 0x90, 0xF0, 0x90, 0xF0] ++ -- 8
  [0xF0, 0x90, 0xF0, 0x10, 0xF0] ++ -- 9
  [0xF0, 0x90, 0xF0, 0x90, 0x90] ++ -- A
  [0xE0, 0x90, 0xE0, 0x90, 0xE0] ++ -- B
  [0xF0, 0x80, 0x80, 0x80, 0xF0] ++ -- C
  [0xE0, 0x90, 0x90, 0x90, 0xE0] ++ -- D
  [0xF0, 0x80, 0xF0, 0x80, 0xF0] ++ -- E
  [0xF0, 0x80, 0xF0, 0x80, 0x80]    -- F

/-- The default of `FONT` (R8). No operation and no meaning reads it: the font in use is the one the
state holds. -/
def defaultFont : Font := ⟨defaultFontBytes.toArray, rfl⟩

end Sys2Proof.Machine
end

