-- ==== Sys2Proof/Machine/State.lean ====
section
/-! DEFINITION. The state of CORE (10_state.md), the host's operations and answers
(45_engine_tick.md R231), the ways a step can stop, and the state after reset (R40). Plain data. -/

namespace Sys2Proof.Machine

/-- Memory (R28): the parameter `FONT` of this machine (00_scope.md R8), which no operation changes,
and address and byte pairs, addresses strictly rising, no entry equal to what an unlisted address
reads as (Machine/Ops.lean `Memory.wf`; log 7). -/
structure Memory where
  font : Font
  cells : List Host.Cell
deriving DecidableEq, Repr

/-- The display `FB[y][x]`: 32 rows of 64 columns, `true` is "on" (R29). -/
abbrev Display := Vector (Vector Bool 64) 32

/-- The codes of the fault record (60_exceptions.md R260). -/
inductive FaultCode where
  /-- Code 0: no fault is latched. -/
  | none
  /-- Code 1: the fetched word decodes to `Invalid` (R261). -/
  | invalidOpcode
  /-- Code 2: `CALL` at `SP = 15` (R262). -/
  | stackOverflow
  /-- Code 3: `RET` at `SP = 0` (R263). -/
  | stackUnderflow
  /-- Code 4: a fetch at `PC > 0xFFE` (R264). -/
  | memRangeFetch
  /-- Code 5: a data address of 4096 or above in `DRW` or `LD B` (R265). -/
  | memRangeData
deriving DecidableEq, Repr

/-- The argument of `load_rom`: a byte sequence, or the token `unreadable` (R231). -/
inductive Image where
  | bytes (data : List Byte)
  | unreadable
deriving DecidableEq, Repr

/-- The operations the host can invoke, between ticks only (R231, R243). -/
inductive HostOp where
  /-- `power_on` (70_reset_and_hazards.md R300). -/
  | powerOn
  /-- `hard_reset` (R301). -/
  | hardReset
  /-- `soft_reset` (R302). -/
  | softReset
  /-- `load_rom` (45_engine_tick.md R239). -/
  | loadRom (image : Image)
  /-- `tick(keys)`: key `k` is bit `k` of the snapshot (R232, 44_keypad_timers.md R210). -/
  | tick (keys : BitVec 16)
  /-- `set_ipt` (R240): any natural number. -/
  | setIpt (n : Nat)
  /-- `set_palette` (R240). -/
  | setPalette (on off : Color)
  /-- `set_pause` (R240). -/
  | setPause (b : Bool)
  /-- `clear_fault` (R242). -/
  | clearFault
  /-- Read-out (R241). -/
  | readOut
deriving DecidableEq, Repr

/-- What a read-out delivers (R241): the pixel buffer as 2048 colours in row-major order (index
`64 * y + x`), the two timers, memory, the fault record, `LOADED` and `ROMLEN`. -/
structure ReadOut where
  pixels : Vector Color 2048
  dt : Byte
  st : Byte
  mem : Memory
  faultValid : Bool
  faultCode : FaultCode
  faultAddr : Word
  faultWord : Word
  loaded : Bool
  romLen : Nat
deriving DecidableEq, Repr

/-- What the host is answered. -/
inductive Reply where
  /-- `load_rom` succeeded (R239). -/
  | romLoaded
  /-- `load_rom` failed: `LoadError`, recoverable, not latched (60_exceptions.md R266). -/
  | loadError
  /-- The answer to a read-out. -/
  | readOut (r : ReadOut)
deriving DecidableEq, Repr

/-- The state of the machine (10_state.md R20 to R35, R38), then the model's own fields. -/
structure State where
  /-- `V[0..15]` (R20); `V[15]` is VF (R21). -/
  v : Vector Byte 16
  /-- The index register `I` (R22). -/
  i : Word
  /-- The program counter `PC` (R23). -/
  pc : Word
  /-- The stack pointer `SP`, 0 to 15: the next free entry (R24). -/
  sp : Fin 16
  /-- `STACK[0..15]`, not part of memory (R25). -/
  stack : Vector Word 16
  /-- The delay timer `DT` (R26). -/
  dt : Byte
  /-- The sound timer `ST` (R27). -/
  st : Byte
  /-- `MEM[0..4095]` (R28). -/
  mem : Memory
  /-- `FB[y][x]` (R29). -/
  fb : Display
  /-- `KEY[k]` is bit `k`; 1 is pressed (R31). -/
  key : BitVec 16
  /-- `KEYPREV[k]` is bit `k` (R31). -/
  keyPrev : BitVec 16
  /-- `LOADED` (R32). -/
  loaded : Bool
  /-- `ROMLEN` (R32). -/
  romLen : Nat
  /-- `PAUSE` (R33). -/
  pause : Bool
  /-- `IPT` (R34). -/
  ipt : Nat
  /-- `COLOR_ON` (R30). -/
  colorOn : Color
  /-- `COLOR_OFF` (R30). -/
  colorOff : Color
  /-- `FAULT_VALID` (R35). -/
  faultValid : Bool
  /-- `FAULT_CODE` (R35). -/
  faultCode : FaultCode
  /-- `FAULT_ADDR` (R35). -/
  faultAddr : Word
  /-- `FAULT_WORD` (R35). -/
  faultWord : Word
  /-- The position within the tick (R38b): the slots of the current tick still to run, 0 between
  ticks (log 3). -/
  slots : Nat
  /-- The model's own: how many random bytes have been drawn (R245; log 10). -/
  draws : Nat
  /-- The model's own: the host's operations not yet performed, oldest first (R231; log 1). -/
  inbox : List HostOp
  /-- The model's own: the answers given to the host, oldest first (R239, R241; log 4). -/
  outbox : List Reply
deriving DecidableEq, Repr

/-- A fault would be an outcome in which the machine stops with no next state. No constructor: the
five faults of the spec are latched in the fault record and the machine goes on, in the faulted run
state (60_exceptions.md R268, R238), so raising one is a NEXT state. Nobody raises a `Fault`. Safe
(log 5). -/
inductive Fault
deriving DecidableEq, Repr

/-- Where the model has no move. The last four are the preconditions of host operations outside
which the spec gives no move (treatment `refuse` of 93_implementation_defined.md, and R271); all are
safe. -/
inductive Refusal where
  /-- Raised by an arm of `exec` whose instruction has no meaning yet; no arm raises it. -/
  | notModelled (mnemonic : String)
  /-- Raised by `load_rom` while a program is loaded (R239, U7). -/
  | loadWhileLoaded
  /-- Raised by `set_palette` with equal colours (R240, U8). -/
  | paletteColorsEqual
  /-- Raised by `clear_fault` with no fault latched (R242, U20). -/
  | noFaultToClear
  /-- Raised by `power_on` while a fault is latched: R271 names three ways out of the faulted state and
  says that it is left only by these, and R300 starts "from nothing" (log 41). -/
  | powerOnWhileFaulted
deriving DecidableEq, Repr

/-- The machine right after `power_on` (R40, 70_reset_and_hazards.md R300), for any value of the
parameter `FONT` (00_scope.md R8): halted, no program. Memory lists nothing: an unlisted address
reads as its reset content. The values the source does not give are the spec's decisions and the
colours are open (logs 9, 11, 12, 37). -/
def State.resetWith (font : Font) : State where
  v := Vector.replicate 16 0
  i := 0
  pc := 0x200
  sp := 0
  stack := Vector.replicate 16 0
  dt := 0
  st := 0
  mem := { font := font, cells := [] }
  fb := Vector.replicate 32 (Vector.replicate 64 false)
  key := 0
  keyPrev := 0
  loaded := false
  romLen := 0
  pause := false
  ipt := Config.defaultIpt
  colorOn := Config.colorOnDefault
  colorOff := Config.colorOffDefault
  faultValid := false
  faultCode := .none
  faultAddr := 0
  faultWord := 0
  slots := 0
  draws := 0
  inbox := []
  outbox := []

/-- The machine right after `power_on` with the default of `FONT` (R8; log 8). -/
def State.reset : State := State.resetWith defaultFont

end Sys2Proof.Machine
end

