-- ==== Sys2Proof/Machine/Ops.lean ====
section
/-! DEFINITION. The named operations over memory, registers, stack and display, and taking a fault
and returning from one. -/

namespace Sys2Proof.Machine

/-! ## Memory (20_memory.md) -/

/-- What an unlisted address reads as: its content after a hard reset, the font at 0x000 to 0x04F
and zero elsewhere (10_state.md R40, R61; log 7). -/
def Memory.blank (font : Font) (a : Nat) : Byte := if h : a < 80 then font[a] else 0

/-- The byte at `a` in a list of cells. -/
def Memory.readCells (font : Font) : List Host.Cell → Nat → Byte
  | [], a => Memory.blank font a
  | (b, u) :: l, a => if a = b then u else Memory.readCells font l a

/-- The cell at the front of a canonical list: kept out when it says what an unlisted address
reads as anyway. -/
def Memory.consCell (font : Font) (a : Nat) (v : Byte) (l : List Host.Cell) : List Host.Cell :=
  if v = Memory.blank font a then l else (a, v) :: l

/-- The list with `v` at `a`. A canonical list stays canonical. -/
def Memory.writeCells (font : Font) : List Host.Cell → Nat → Byte → List Host.Cell
  | [], a, v => Memory.consCell font a v []
  | (b, u) :: l, a, v =>
    if a < b then Memory.consCell font a v ((b, u) :: l)
    else if a = b then Memory.consCell font a v l
    else (b, u) :: Memory.writeCells font l a v

/-- `MEM[a]` read: no side effect (R72). -/
def Memory.read (m : Memory) (a : Nat) : Byte := Memory.readCells m.font m.cells a

/-- `MEM[a] <- v`: that byte only (R65, R72). -/
def Memory.write (m : Memory) (a : Nat) (v : Byte) : Memory :=
  { m with cells := Memory.writeCells m.font m.cells a v }

/-- Every byte at its reset content: all zero, then the font written (70_reset_and_hazards.md
R301). -/
def Memory.cleared (m : Memory) : Memory := { m with cells := [] }

/-- The canonical form of a list of cells. -/
abbrev Memory.wfCells (font : Font) (l : List Host.Cell) : Prop :=
  l.Pairwise (fun c d => c.1 < d.1) ∧ ∀ c ∈ l, c.1 < 4096 ∧ c.2 ≠ Memory.blank font c.1

/-- The canonical form: addresses strictly rising and below 4096, no entry equal to what an
unlisted address reads as. -/
abbrev Memory.wf (m : Memory) : Prop := Memory.wfCells m.font m.cells

/-- Bytes written at consecutive addresses, ascending. -/
def Memory.writeBytes : Memory → Nat → List Byte → Memory
  | m, _, [] => m
  | m, a, b :: bs => Memory.writeBytes (m.write a b) (a + 1) bs

/-- `MemRead(addr, 2)` past its range check: the byte at the lower address in bits 15 to 8 (R66). -/
def Memory.fetchWord (m : Memory) (a : Nat) : Word := wordOfBytes (m.read a) (m.read (a + 1))

/-- The range test of the rejecting form (R64 to R66, R69): `len` bytes from `base` on reach address
4096 or above. No byte, no fault. Addresses are natural numbers (R70). -/
abbrev outOfRange (base len : Nat) : Prop := 1 ≤ len ∧ 4096 ≤ base + len - 1

/-- `len` bytes from `base` on, ascending. -/
def Memory.readBytes (m : Memory) (base len : Nat) : List Byte :=
  (List.range len).map fun k => m.read (base + k)

/-! ## Registers (10_state.md) -/

/-- `V[x]` (R20): no register is hardwired, banked or aliased. -/
def State.getV (s : State) (x : Reg) : Byte := s.v[x]

/-- `V[x] <- b` (R20). -/
def State.setV (s : State) (x : Reg) (b : Byte) : State := { s with v := s.v.set x b }

/-- The flag register VF (R21). -/
def vf : Reg := 15

/-- The flag write and then the result write, both values computed before (41_alu.md R141): with
`x = 15` the result remains (log 16). -/
def State.setFlagThenResult (s : State) (x : Reg) (flag result : Byte) : State :=
  (s.setV vf flag).setV x result

/-- `MEM[a] <- b`. -/
def State.setMem (s : State) (a : Nat) (b : Byte) : State := { s with mem := s.mem.write a b }

/-- "Skip": 2 more is added to the already advanced PC (40_control_flow.md R120). -/
def State.skipIf (s : State) (c : Bool) : State := if c then { s with pc := s.pc + 2 } else s

/-- The next byte of the environment's random source (45_engine_tick.md R245; log 10). -/
def State.drawByte (s : State) : Byte := Config.freeDraw s.draws

/-! ## Display (43_display.md) -/

/-- `FB[y][x]`; a column or row outside the grid is no pixel. -/
def Display.pixel (fb : Display) (x y : Nat) : Bool :=
  if h : x < 64 ∧ y < 32 then (fb[y]'h.2)[x]'h.1 else false

/-- XOR one sprite bit that is 1 onto (x, y): the pixel is toggled, a pixel that was on is a
collision (R191), a pixel outside the grid is clipped and cannot collide (R192). -/
def Display.toggle (acc : Display × Bool) (x y : Nat) : Display × Bool :=
  if h : x < 64 ∧ y < 32 then
    (acc.1.set y ((acc.1[y]'h.2).set x (!(acc.1[y]'h.2)[x]'h.1) h.1) h.2,
      acc.2 || (acc.1[y]'h.2)[x]'h.1)
  else acc

/-- One sprite row: bit 7 is column offset 0 (R190; log 29). -/
def Display.drawRow (acc : Display × Bool) (ox y : Nat) (b : Byte) : Display × Bool :=
  (List.range 8).foldl
    (fun a c => if b.getLsbD (7 - c) then Display.toggle a (ox + c) y else a) acc

/-- The sprite rows, downward from row `y` (R190, R194). -/
def Display.drawRows (ox : Nat) : Nat → List Byte → Display × Bool → Display × Bool
  | _, [], acc => acc
  | y, b :: bs, acc => Display.drawRows ox (y + 1) bs (Display.drawRow acc ox y b)

/-- Every pixel off (R193). -/
def Display.clear : Display := Vector.replicate 32 (Vector.replicate 64 false)

/-! ## Faults (60_exceptions.md) -/

/-- The number of a fault code (R260). -/
def FaultCode.number : FaultCode → Nat
  | .none => 0
  | .invalidOpcode => 1
  | .stackOverflow => 2
  | .stackUnderflow => 3
  | .memRangeFetch => 4
  | .memRangeData => 5

/-- Fault entry (R268): the record is written and nothing else; the end of the tick follows in
`State.afterSlot`. -/
def State.raise (s : State) (c : FaultCode) (addr word : Word) : State :=
  { s with faultCode := c, faultAddr := addr, faultWord := word, faultValid := true }

/-- Fault entry from the meaning of an instruction: PC is already `a + 2`, so `FAULT_ADDR` is
`PC - 2`, and `FAULT_WORD` is the instruction's word (R262, R263, R265; log 6). -/
def State.raiseIn (s : State) (i : Instr) (c : FaultCode) : State :=
  s.raise c (s.pc - 2) (encode i)

/-- Return from a fault: the record is cleared, PC and everything else stay (45_engine_tick.md
R242, R271). -/
def State.clearFaultRecord (s : State) : State :=
  { s with faultValid := false, faultCode := .none, faultAddr := 0, faultWord := 0 }

end Sys2Proof.Machine
end

