-- ==== Sys2Proof/Machine/Flags.lean ====
section
/-! DEFINITION. Every flag computation (10_state.md R21, 41_alu.md R140): the only flag is VF, and a
flag value is 0x00 or 0x01. -/

namespace Sys2Proof.Machine

/-- A flag as the byte written to VF (R21). -/
def flagByte (b : Bool) : Byte := if b then 1 else 0

/-- Carry out: the unsigned sum exceeds 255 (R149). -/
def carryFlag (a b : Byte) : Byte := flagByte (decide (255 < a.toNat + b.toNat))

/-- No borrow: the minuend is not less than the subtrahend (R150, R152). -/
def noBorrowFlag (minuend subtrahend : Byte) : Byte :=
  flagByte (decide (subtrahend.toNat ≤ minuend.toNat))

/-- The bit a right shift moves out: bit 0 (R151). -/
def shiftedOutRight (a : Byte) : Byte := flagByte (a.getLsbD 0)

/-- The bit a left shift moves out: bit 7 (R153). -/
def shiftedOutLeft (a : Byte) : Byte := flagByte (a.getLsbD 7)

/-- Collision: some drawn bit turned an "on" pixel off (43_display.md R194). -/
def collisionFlag (coll : Bool) : Byte := flagByte coll

end Sys2Proof.Machine
end

