-- ==== Sys2Proof/Machine/Operands.lean ====
section
/-! DEFINITION. The operand forms: how fields and registers become addresses, targets, indices and
digits (30_encoding.md R93; 42_index_memory.md R170). All values are unsigned. -/

namespace Sys2Proof.Machine

/-- `zext_16(NNN)` (R93). -/
def zext16 (nnn : Addr) : Word := nnn.setWidth 16

/-- `zext_16(V[X])` (R129, R173). -/
def zextByte (b : Byte) : Word := b.setWidth 16

/-- The effective address `I + offset`, a natural number, not reduced to 16 bits
(20_memory.md R70; log 18). -/
def effectiveAddr (s : State) (offset : Nat) : Nat := s.i.toNat + offset

/-- The masking form of the dump and load: `(I + offset) mod 4096` (R71). -/
def wrapAddr (s : State) (offset : Nat) : Nat := effectiveAddr s offset % 4096

/-- The target of `JP V0`: `NNN + V[0]`, not reduced to 12 bits (40_control_flow.md R129). -/
def offsetTarget (s : State) (nnn : Addr) : Word := zext16 nnn + zextByte (s.getV 0)

/-- The address of the font glyph for the low nibble: `(b AND 0x0F) * 5` (42_index_memory.md
R174). -/
def glyphAddr (b : Byte) : Word := zextByte (b &&& 0x0F) * 5

/-- A key index from a register: the low nibble only (44_keypad_timers.md R210). -/
def keyIndex (b : Byte) : Nat := (b &&& 0x0F).toNat

/-- `KEY[k] = 1`. -/
def State.pressed (s : State) (k : Nat) : Bool := s.key.getLsbD k

/-- A release edge: `KEYPREV[k] = 1` and `KEY[k] = 0` (R211). -/
def State.releaseEdge (s : State) (k : Nat) : Bool := s.keyPrev.getLsbD k && !s.key.getLsbD k

/-- The scan of the key wait: the lowest key with a release edge (R215; log 21). -/
def State.firstRelease (s : State) : Option Nat := (List.range 16).find? s.releaseEdge

/-- The three BCD digits, hundreds first (42_index_memory.md R175). -/
def bcdDigits (b : Byte) : List Byte :=
  [BitVec.ofNat 8 (b.toNat / 100), BitVec.ofNat 8 (b.toNat / 10 % 10), BitVec.ofNat 8 (b.toNat % 10)]

/-- The column of the sprite origin: `V[X] mod 64` (43_display.md R192). -/
def originX (b : Byte) : Nat := b.toNat % 64

/-- The row of the sprite origin: `V[Y] mod 32` (R192). -/
def originY (b : Byte) : Nat := b.toNat % 32

/-- The registers `V[0..x]` stored from `I` on, ascending, addresses mod 4096 (42_index_memory.md
R176). -/
def State.dump (s : State) (x : Reg) : State :=
  (List.range (x + 1)).foldl (fun t k => t.setMem (wrapAddr s k) (s.getV (Fin.ofNat 16 k))) s

/-- The registers `V[0..x]` loaded from `I` on, ascending, addresses mod 4096 (R177). -/
def State.load (s : State) (x : Reg) : State :=
  (List.range (x + 1)).foldl (fun t k => t.setV (Fin.ofNat 16 k) (s.mem.read (wrapAddr s k))) s

end Sys2Proof.Machine
end

