-- ==== Sys2Proof/Machine/Alu.lean ====
section
/-! DEFINITION. The ALU instructions (41_alu.md). Operands are read before any register is written
(R141); byte addition and subtraction wrap modulo 256 (R140); none can fault (R142). -/

namespace Sys2Proof.Machine

/-- `LD Vx, byte` (R143). -/
def execLdImm (x : Reg) (nn : Byte) (s : State) : Host.Outcome State Fault Refusal :=
  .next (s.setV x nn)

/-- `ADD Vx, byte`: no flag (R144). -/
def execAddImm (x : Reg) (nn : Byte) (s : State) : Host.Outcome State Fault Refusal :=
  .next (s.setV x (s.getV x + nn))

/-- `LD Vx, Vy` (R145). -/
def execLdReg (x y : Reg) (s : State) : Host.Outcome State Fault Refusal :=
  .next (s.setV x (s.getV y))

/-- `OR Vx, Vy`: VF is not reset (R146). -/
def execOr (x y : Reg) (s : State) : Host.Outcome State Fault Refusal :=
  .next (s.setV x (s.getV x ||| s.getV y))

/-- `AND Vx, Vy` (R147). -/
def execAnd (x y : Reg) (s : State) : Host.Outcome State Fault Refusal :=
  .next (s.setV x (s.getV x &&& s.getV y))

/-- `XOR Vx, Vy` (R148). -/
def execXor (x y : Reg) (s : State) : Host.Outcome State Fault Refusal :=
  .next (s.setV x (s.getV x ^^^ s.getV y))

/-- `ADD Vx, Vy`: VF is the carry (R149). -/
def execAddReg (x y : Reg) (s : State) : Host.Outcome State Fault Refusal :=
  .next (s.setFlagThenResult x (carryFlag (s.getV x) (s.getV y)) (s.getV x + s.getV y))

/-- `SUB Vx, Vy`: VF is "no borrow" (R150). -/
def execSub (x y : Reg) (s : State) : Host.Outcome State Fault Refusal :=
  .next (s.setFlagThenResult x (noBorrowFlag (s.getV x) (s.getV y)) (s.getV x - s.getV y))

/-- `SHR Vx`: in place, logical, VF is the old bit 0; `V[Y]` plays no part (R151). -/
def execShr (x _y : Reg) (s : State) : Host.Outcome State Fault Refusal :=
  .next (s.setFlagThenResult x (shiftedOutRight (s.getV x)) (s.getV x >>> 1))

/-- `SUBN Vx, Vy`: `V[Y] - V[X]`, VF is "no borrow" (R152). -/
def execSubn (x y : Reg) (s : State) : Host.Outcome State Fault Refusal :=
  .next (s.setFlagThenResult x (noBorrowFlag (s.getV y) (s.getV x)) (s.getV y - s.getV x))

/-- `SHL Vx`: in place, VF is the old bit 7; `V[Y]` plays no part (R153). -/
def execShl (x _y : Reg) (s : State) : Host.Outcome State Fault Refusal :=
  .next (s.setFlagThenResult x (shiftedOutLeft (s.getV x)) (s.getV x <<< 1))

/-- `RND Vx, byte`: a fresh free byte AND `NN` (R154; log 10). -/
def execRnd (x : Reg) (nn : Byte) (s : State) : Host.Outcome State Fault Refusal :=
  .next { s.setV x (s.drawByte &&& nn) with draws := s.draws + 1 }

end Sys2Proof.Machine
end

