-- ==== Sys2Proof/Machine/Control.lean ====
section
/-! DEFINITION. Control transfer (40_control_flow.md). On entry `PC = a + 2` (R120). -/

namespace Sys2Proof.Machine

/-- `RET` (R121). -/
def execRet (ign : Nibble) (s : State) : Host.Outcome State Fault Refusal :=
  if s.sp = 0 then .next (s.raiseIn (.ret ign) .stackUnderflow)
  else .next { s with sp := s.sp - 1, pc := s.stack[s.sp - 1] }

/-- `JP addr` (R123). -/
def execJp (nnn : Addr) (s : State) : Host.Outcome State Fault Refusal :=
  .next { s with pc := zext16 nnn }

/-- `CALL addr` (R122). -/
def execCall (nnn : Addr) (s : State) : Host.Outcome State Fault Refusal :=
  if s.sp = 15 then .next (s.raiseIn (.call nnn) .stackOverflow)
  else .next { s with stack := s.stack.set s.sp s.pc, sp := s.sp + 1, pc := zext16 nnn }

/-- `SE Vx, byte` (R124). -/
def execSeImm (x : Reg) (nn : Byte) (s : State) : Host.Outcome State Fault Refusal :=
  .next (s.skipIf (s.getV x == nn))

/-- `SNE Vx, byte` (R125). -/
def execSneImm (x : Reg) (nn : Byte) (s : State) : Host.Outcome State Fault Refusal :=
  .next (s.skipIf (s.getV x != nn))

/-- `SE Vx, Vy` (R126). -/
def execSeReg (x y : Reg) (_ign : Nibble) (s : State) : Host.Outcome State Fault Refusal :=
  .next (s.skipIf (s.getV x == s.getV y))

/-- `SNE Vx, Vy` (R127). -/
def execSneReg (x y : Reg) (_ign : Nibble) (s : State) : Host.Outcome State Fault Refusal :=
  .next (s.skipIf (s.getV x != s.getV y))

/-- `JP V0, addr` (R129). -/
def execJpV0 (nnn : Addr) (s : State) : Host.Outcome State Fault Refusal :=
  .next { s with pc := offsetTarget s nnn }

end Sys2Proof.Machine
end

