-- ==== Sys2Proof/Machine/Index.lean ====
section
/-! DEFINITION. Index register and memory instructions (42_index_memory.md). Only the first three
write `I` (R171). -/

namespace Sys2Proof.Machine

/-- `LD I, addr` (R172). -/
def execLdI (nnn : Addr) (s : State) : Host.Outcome State Fault Refusal :=
  .next { s with i := zext16 nnn }

/-- `ADD I, Vx`: mod 65536, no flag, no fault (R173). -/
def execAddI (x : Reg) (s : State) : Host.Outcome State Fault Refusal :=
  .next { s with i := s.i + zextByte (s.getV x) }

/-- `LD F, Vx` (R174). -/
def execLdF (x : Reg) (s : State) : Host.Outcome State Fault Refusal :=
  .next { s with i := glyphAddr (s.getV x) }

/-- `LD B, Vx`: all three addresses are tested before the first write (R175). -/
def execLdB (x : Reg) (s : State) : Host.Outcome State Fault Refusal :=
  if outOfRange (effectiveAddr s 0) 3 then .next (s.raiseIn (.ldB x) .memRangeData)
  else .next { s with mem := s.mem.writeBytes (effectiveAddr s 0) (bcdDigits (s.getV x)) }

/-- `LD [I], Vx`: the register dump, wraps, never faults (R176). -/
def execLdMemVx (x : Reg) (s : State) : Host.Outcome State Fault Refusal :=
  .next (s.dump x)

/-- `LD Vx, [I]`: the register load, wraps, never faults (R177). -/
def execLdVxMem (x : Reg) (s : State) : Host.Outcome State Fault Refusal :=
  .next (s.load x)

end Sys2Proof.Machine
end

