-- ==== Sys2Proof/Machine/Keypad.lean ====
section
/-! DEFINITION. Keypad and timer instructions (44_keypad_timers.md). None can fault. -/

namespace Sys2Proof.Machine

/-- `SKP Vx` (R212). -/
def execSkp (x : Reg) (s : State) : Host.Outcome State Fault Refusal :=
  .next (s.skipIf (s.pressed (keyIndex (s.getV x))))

/-- `SKNP Vx` (R213). -/
def execSknp (x : Reg) (s : State) : Host.Outcome State Fault Refusal :=
  .next (s.skipIf (!s.pressed (keyIndex (s.getV x))))

/-- `LD Vx, DT` (R214). -/
def execLdVxDt (x : Reg) (s : State) : Host.Outcome State Fault Refusal :=
  .next (s.setV x s.dt)

/-- `LD Vx, K`: the key wait blocks by re-execution (R215). -/
def execLdVxK (x : Reg) (s : State) : Host.Outcome State Fault Refusal :=
  match s.firstRelease with
  | some k => .next (s.setV x (BitVec.ofNat 8 k))
  | none => .next { s with pc := s.pc - 2 }

/-- `LD DT, Vx` (R216). -/
def execLdDtVx (x : Reg) (s : State) : Host.Outcome State Fault Refusal :=
  .next { s with dt := s.getV x }

/-- `LD ST, Vx` (R217). -/
def execLdStVx (x : Reg) (s : State) : Host.Outcome State Fault Refusal :=
  .next { s with st := s.getV x }

end Sys2Proof.Machine
end

