-- ==== Sys2Proof/Machine/Sprite.lean ====
section
/-! DEFINITION. Display instructions (43_display.md). -/

namespace Sys2Proof.Machine

/-- `CLS`: VF is not written (R193). -/
def execCls (_ign : Nibble) (s : State) : Host.Outcome State Fault Refusal :=
  .next { s with fb := Display.clear }

/-- The display and the collision after drawing `n` sprite rows read at `I` with the origin of
`V[x]`, `V[y]` (R190 to R192, R194). -/
def State.composite (s : State) (x y : Reg) (n : Nat) : Display × Bool :=
  Display.drawRows (originX (s.getV x)) (originY (s.getV y))
    (s.mem.readBytes (effectiveAddr s 0) n) (s.fb, false)

/-- `DRW Vx, Vy, n`: all `n` rows are range-checked first, clipped or not (R194; log 30); the
coordinates are read before VF is written. -/
def execDrw (x y : Reg) (n : Nat) (s : State) : Host.Outcome State Fault Refusal :=
  if outOfRange (effectiveAddr s 0) n then .next (s.raiseIn (.drw x y n) .memRangeData)
  else .next ({ s with fb := (s.composite x y n).1 }.setV vf (collisionFlag (s.composite x y n).2))

end Sys2Proof.Machine
end

