-- ==== Sys2Proof/Machine/Engine.lean ====
section
/-! DEFINITION. The engine around the instructions (45_engine_tick.md): fetch and decode, the end of
a slot, the start of a tick, and the host's operations (R231, 70_reset_and_hazards.md). -/

namespace Sys2Proof.Machine

/-! ## Fetch and decode (R234) -/

/-- What fetch and decode give: an instruction to run, or a latched fault. -/
inductive Fetched where
  | run (i : Instr) (s : State)
  | faulted (s : State)
deriving DecidableEq, Repr

/-- Fetch the word at PC, advance PC by 2, decode (R234). A fetch that would touch address 4096
faults with PC not advanced (60_exceptions.md R264); an `Invalid` word faults after the advance
(R261). -/
def State.fetchDecode (s : State) : Fetched :=
  if outOfRange s.pc.toNat 2 then .faulted (s.raise .memRangeFetch s.pc 0)
  else
    match decode (s.mem.fetchWord s.pc.toNat) with
    | .ok i => .run i { s with pc := s.pc + 2 }
    | .error _ =>
      .faulted ({ s with pc := s.pc + 2 }.raise .invalidOpcode s.pc (s.mem.fetchWord s.pc.toNat))

/-! ## The tick (R232 to R238) -/

/-- One timer toward 0, never below (R235). -/
def timerDown (b : Byte) : Byte := if b = 0 then 0 else b - 1

/-- The end of a tick that ran its batch: both timers, independently (R235). -/
def State.decTimers (s : State) : State := { s with dt := timerDown s.dt, st := timerDown s.st }

/-- `resync(keys)`: the old levels become the previous-tick snapshot (R233). -/
def State.resync (s : State) (keys : BitVec 16) : State := { s with keyPrev := s.key, key := keys }

/-- After a slot: a fault ends the tick with no timer decrement (R232, R268), the last slot is
followed by the decrement (R235), any other slot leaves one slot fewer (log 3). -/
def State.afterSlot (s : State) : State :=
  if s.faultValid then { s with slots := 0 }
  else if s.slots ≤ 1 then { s with slots := 0 }.decTimers
  else { s with slots := s.slots - 1 }

/-- The start of `tick(keys)` (R232): nothing while halted (R237) or faulted (R238), the resync
alone while paused (R236), else the resync and `IPT` slots to run; with `IPT = 0` the tick ends at
once with the decrement (R235). -/
def State.beginTick (s : State) (keys : BitVec 16) : State :=
  if s.loaded = false then s
  else if s.faultValid then s
  else if s.pause then s.resync keys
  else if s.ipt = 0 then (s.resync keys).decTimers
  else { s.resync keys with slots := s.ipt }

/-! ## Resets (70_reset_and_hazards.md R300 to R302) -/

/-- What `power_on` leaves (R300), with the machine's own `FONT`. What the environment has asked for,
been told and drawn is not CORE's and is kept (log 23). -/
def State.poweredOn (s : State) : State :=
  { State.resetWith s.mem.font with inbox := s.inbox, outbox := s.outbox, draws := s.draws }

/-- `power_on` (R300). The faulted state is left only by the three operations of 60_exceptions.md
R271, so no move while a fault is latched. DESIGN CHOICE (log 41; unsafe): R300 says "from nothing"
and not from which run states it may be invoked; the model makes it legal in every other one. -/
def State.powerOn (s : State) : Host.Outcome State Fault Refusal :=
  if s.faultValid then .refused .powerOnWhileFaulted else .next s.poweredOn

/-- `soft_reset` (R302): registers, stack, timers, display, keypad and fault record; `MEM`,
`LOADED`, `ROMLEN` and the configuration stay (log 24). -/
def State.softReset (s : State) : State :=
  { s.clearFaultRecord with
    v := Vector.replicate 16 0, i := 0, pc := 0x200, sp := 0, stack := Vector.replicate 16 0,
    dt := 0, st := 0, fb := Display.clear, key := 0, keyPrev := 0 }

/-- `hard_reset` (R301): as the soft reset, and memory is zeroed and the font written,
no program loaded; the configuration stays (log 23). -/
def State.hardReset (s : State) : State :=
  { s.softReset with mem := s.mem.cleared, loaded := false, romLen := 0 }

/-! ## The other operations (45_engine_tick.md R239 to R242) -/

/-- One more answer to the host. -/
def State.reply (s : State) (r : Reply) : State := { s with outbox := s.outbox ++ [r] }

/-- `load_rom` (R239): only while no program is loaded, else no move (log 25). An unreadable or
oversized image is `LoadError` and changes nothing (60_exceptions.md R266). -/
def State.loadRom (s : State) (image : Image) : Host.Outcome State Fault Refusal :=
  if s.loaded then .refused .loadWhileLoaded
  else
    match image with
    | .unreadable => .next (s.reply .loadError)
    | .bytes data =>
      if 3584 < data.length then .next (s.reply .loadError)
      else
        .next ({ s with mem := s.mem.writeBytes 0x200 data, romLen := data.length,
                        loaded := true }.reply .romLoaded)

/-- The host-visible colour of a pixel (10_state.md R30). -/
def State.pixelColor (s : State) (x y : Nat) : Color :=
  if s.fb.pixel x y then s.colorOn else s.colorOff

/-- What a read-out delivers (R241). -/
def State.readOut (s : State) : ReadOut where
  pixels := Vector.ofFn fun k : Fin 2048 => s.pixelColor (k.val % 64) (k.val / 64)
  dt := s.dt
  st := s.st
  mem := s.mem
  faultValid := s.faultValid
  faultCode := s.faultCode
  faultAddr := s.faultAddr
  faultWord := s.faultWord
  loaded := s.loaded
  romLen := s.romLen

/-- `set_palette` (R240): the two colours must differ, else no move (log 26). -/
def State.setPalette (s : State) (on off : Color) : Host.Outcome State Fault Refusal :=
  if on = off then .refused .paletteColorsEqual
  else .next { s with colorOn := on, colorOff := off }

/-- `clear_fault` (R242): only while a fault is latched, else no move (log 28). -/
def State.clearFault (s : State) : Host.Outcome State Fault Refusal :=
  if s.faultValid then .next s.clearFaultRecord else .refused .noFaultToClear

/-- One operation of the host, between ticks (R231, R243). -/
def State.hostOp (s : State) (op : HostOp) : Host.Outcome State Fault Refusal :=
  match op with
  | .powerOn => s.powerOn
  | .hardReset => .next s.hardReset
  | .softReset => .next s.softReset
  | .loadRom image => s.loadRom image
  | .tick keys => .next (s.beginTick keys)
  | .setIpt n => .next { s with ipt := n }
  | .setPalette on off => s.setPalette on off
  | .setPause b => .next { s with pause := b }
  | .clearFault => s.clearFault
  | .readOut => .next (s.reply (.readOut s.readOut))

/-- A step between ticks: the oldest operation asked for is performed. With none asked for, nothing
happens (R230, R243; log 2). -/
def State.hostMove (s : State) : Host.Outcome State Fault Refusal :=
  match s.inbox with
  | [] => .next s
  | op :: rest => { s with inbox := rest }.hostOp op

/-! ## Placing a word for the next fetch (log 35) -/

/-- The engine in the middle of a tick with no fault latched, so that the next step is a slot; a
place for a whole word at PC. What already holds is kept. -/
def State.readyToFetch (s : State) : State :=
  { s.clearFaultRecord with
    loaded := true, pause := false,
    slots := if s.slots = 0 then max 1 s.ipt else s.slots,
    pc := if outOfRange s.pc.toNat 2 then 0x200 else s.pc }

/-- A word stored where the next fetch reads it, big-endian (20_memory.md R66). -/
def State.placeWord (s : State) (w : Word) : State :=
  { s with mem := s.mem.writeBytes s.pc.toNat [highByte w, lowByte w] }

end Sys2Proof.Machine
end

