-- ==== Sys2Proof/Machine/Step.lean ====
section
/-! DEFINITION. One step of the machine: a slot of the running tick (45_engine_tick.md R234), or
between ticks one operation of the host (R231). -/

namespace Sys2Proof.Machine

/-- `step()` of R234, one slot: fetch, advance, decode, execute. -/
def slotStep (s : State) : Host.Outcome State Fault Refusal :=
  match s.fetchDecode with
  | .run i t => exec i t
  | .faulted t => .next t

/-- A slot's outcome with the tick's bookkeeping after it (R232). -/
def endSlot (o : Host.Outcome State Fault Refusal) : Host.Outcome State Fault Refusal :=
  match o with
  | .next t => .next t.afterSlot
  | .fault f => .fault f
  | .refused r => .refused r

/-- Inside a tick the next slot, between ticks the host's next operation (R230, R243; log 3). -/
def step (s : State) : Host.Outcome State Fault Refusal :=
  if s.slots = 0 then s.hostMove else endSlot (slotStep s)

/-- The state with the instruction whose bits are `w` (numbered as spec/opcode_table.json numbers
them) stored where the next step fetches it, as a loaded program in a running tick (log 35). -/
def State.withFetchWord (s : State) (nbits w : Nat) : State :=
  s.readyToFetch.placeWord (tableWord nbits w)

end Sys2Proof.Machine
end

