-- ==== Sys2Proof/Machine/Tick.lean ====
section
/-! DEFINITION. A whole tick as the host sees it, atomic (45_engine_tick.md R232, 20_memory.md R77):
the loop of R232 in one function. The step performs the same tick slot by slot. -/

namespace Sys2Proof.Machine

/-- "repeat IPT times: step(); if FAULT_VALID = 1: return", then the timer decrement (R232). -/
def runSlots : Nat → State → Host.Outcome State Fault Refusal
  | 0, s => .next s.decTimers
  | k + 1, s =>
    match slotStep s with
    | .next t => if t.faultValid then .next t else runSlots k t
    | .fault f => .fault f
    | .refused r => .refused r

/-- `tick(keys)` of R232. -/
def wholeTick (keys : BitVec 16) (s : State) : Host.Outcome State Fault Refusal :=
  if s.loaded = false then .next s
  else if s.faultValid then .next s
  else if s.pause then .next (s.resync keys)
  else runSlots s.ipt (s.resync keys)

end Sys2Proof.Machine
end

