-- ==== Sys2Proof/Safety.lean ====
section
/-! DEFINITION. The terms claims use: the parts of the state and what it is for one to stay as it
was, and the invariants that rule out states no run reaches. -/

namespace Sys2Proof

open Machine

/-- The parts of the state, as 10_state.md lists them, and the model's own. -/
inductive StatePart where
  /-- `V[0..15]`. -/
  | regs
  /-- `I`. -/
  | index
  /-- `PC`. -/
  | pc
  /-- `SP` and `STACK[0..15]`. -/
  | stack
  /-- `DT`. -/
  | delay
  /-- `ST`. -/
  | sound
  /-- Every byte of `MEM`. -/
  | memory
  /-- Every pixel of `FB`. -/
  | display
  /-- `KEY` and `KEYPREV`. -/
  | keys
  /-- `LOADED` and `ROMLEN`. -/
  | program
  /-- `PAUSE`, `IPT`, `COLOR_ON`, `COLOR_OFF`, and the parameter `FONT`. -/
  | config
  /-- The four fields of the fault record. -/
  | fault
  /-- The position within the tick. -/
  | tick
  /-- How many random bytes have been drawn. -/
  | draws
  /-- What the host has asked for and been answered. -/
  | host
deriving DecidableEq, Repr

/-- The part reads the same in both states. -/
def StatePart.same (s t : State) : StatePart → Prop
  | .regs => ∀ r, t.getV r = s.getV r
  | .index => t.i = s.i
  | .pc => t.pc = s.pc
  | .stack => t.sp = s.sp ∧ ∀ k : Fin 16, t.stack[k] = s.stack[k]
  | .delay => t.dt = s.dt
  | .sound => t.st = s.st
  | .memory => ∀ a, t.mem.read a = s.mem.read a
  | .display => ∀ x y, t.fb.pixel x y = s.fb.pixel x y
  | .keys => t.key = s.key ∧ t.keyPrev = s.keyPrev
  | .program => t.loaded = s.loaded ∧ t.romLen = s.romLen
  | .config => t.pause = s.pause ∧ t.ipt = s.ipt ∧ t.colorOn = s.colorOn ∧
      t.colorOff = s.colorOff ∧ t.mem.font = s.mem.font
  | .fault => t.faultValid = s.faultValid ∧ t.faultCode = s.faultCode ∧
      t.faultAddr = s.faultAddr ∧ t.faultWord = s.faultWord
  | .tick => t.slots = s.slots
  | .draws => t.draws = s.draws
  | .host => t.inbox = s.inbox ∧ t.outbox = s.outbox

/-- Every part outside `changed` reads the same in both states. -/
def FrameBut (changed : List StatePart) (s t : State) : Prop := ∀ p, p ∉ changed → p.same s t

/-- Every register outside `changed` reads the same. -/
def RegsBut (changed : List Reg) (s t : State) : Prop := ∀ r, r ∉ changed → t.getV r = s.getV r

/-- Memory is in its canonical form (log 7). -/
def Machine.State.canonical (s : State) : Prop := s.mem.wf

/-- The values PC and the stack can hold (10_state.md R42). -/
def Machine.State.pcBounded (s : State) : Prop :=
  s.pc.toNat ≤ 0x10FE ∧ ∀ k : Fin 16, s.stack[k].toNat ≤ 0x1000

/-- Slots run only in the run state "running" (R36); the fault record is empty exactly when no
fault is latched (R35); the colours differ (R30); `ROMLEN` is at most 3584, and 0 with no program
(R32). -/
structure Machine.State.coherent (s : State) : Prop where
  slots_running : s.slots ≠ 0 → s.loaded = true ∧ s.faultValid = false ∧ s.pause = false
  fault_code : s.faultValid = false ↔ s.faultCode = .none
  fault_empty : s.faultValid = false → s.faultAddr = 0 ∧ s.faultWord = 0
  colors_differ : s.colorOn ≠ s.colorOff
  rom_fits : s.romLen ≤ 3584
  rom_none : s.loaded = false → s.romLen = 0

/-- While no program is loaded everything but the configuration and the model's own fields is as
after reset (45_engine_tick.md R239: "registers keep the reset values they necessarily have in the
halted state"), and no slot is left to run. -/
def Machine.State.haltedAsReset (s : State) : Prop :=
  s.loaded = false → s =
    { State.resetWith s.mem.font with
      pause := s.pause, ipt := s.ipt, colorOn := s.colorOn, colorOff := s.colorOff,
      draws := s.draws, inbox := s.inbox, outbox := s.outbox }

/-- The state with what no instruction reads blanked: `ST` (R27), the colours (R30), `ROMLEN` (R32)
and what the host has asked for and been answered. -/
def Machine.State.asSeenByPrograms (s : State) : State :=
  { s with st := 0, colorOn := 0, colorOff := 0, romLen := 0, inbox := [], outbox := [] }

/-- Every bit of the sprite at `I` that is 1 and lands on the pixel: sprite row `r`, column `c`,
bit `7 - c` of the byte at `I + r`, drawn at the origin `(V[x] mod 64, V[y] mod 32)` without
wrapping (43_display.md R190, R192). -/
def SpriteCovers (s : State) (x y : Reg) (n px py : Nat) : Prop :=
  ∃ r c, r < n ∧ c < 8 ∧ px = (s.getV x).toNat % 64 + c ∧ py = (s.getV y).toNat % 32 + r ∧
    (s.mem.read (effectiveAddr s r)).getLsbD (7 - c) = true

/-- The record of a latched fault (60_exceptions.md R260, R268). -/
def Latched (t : State) (c : FaultCode) (addr word : Word) : Prop :=
  t.faultValid = true ∧ t.faultCode = c ∧ t.faultAddr = addr ∧ t.faultWord = word

end Sys2Proof
end

