-- ==== Sys2Proof/Certificates/Slice0/Obligations.lean ====
section
/-! DEFINITION. The statements for the provers. Each docstring names the rule of spec/ it formalises.
`FrameBut` lists the parts an instruction may change (Safety.lean): every other register, flag,
byte of memory, pixel and field reads as before. -/

open Sys2Proof Sys2Proof.Machine

/-! ## Encoding (30_encoding.md) -/

/-- R104: representative words decode to the operation they stand for, and words with no row do not
decode. (The numbers are presumed: log 13; that 0x0000 has no row is the spec's decision D3: log
15.) -/
def Obligations.RepresentativeWordsDecode : Prop :=
  (∀ p ∈ [((0x00E0 : Word), Instr.cls 0), (0x00EE, .ret 0), (0x1234, .jp 0x234),
      (0x3456, .seImm 4 0x56), (0x8124, .addReg 1 2), (0x812E, .shl 1 2), (0x9AB0, .sneReg 0xA 0xB 0),
      (0xD123, .drw 1 2 3), (0xE1A1, .sknp 1), (0xF155, .ldMemVx 1)], decode p.1 = .ok p.2) ∧
  decode 0x0000 = .error .invalidFamily0 ∧ decode 0x8128 = .error .invalidFamily8 ∧
  decode 0xE19F = .error .invalidFamilyE ∧ decode 0xF1FF = .error .invalidFamilyF

/-- Decoding an encoded well-formed instruction gives it back, from its word and from its two bytes
in memory order with anything after them (R90 to R93). (That the ignored nibbles are operands of the
instruction is the model's choice over the spec's decision D2: log 14.) -/
def Obligations.DecodingAnEncodedInstructionGivesItBack : Prop :=
  ∀ i : Instr, i.wellFormed = true →
    decode (encode i) = .ok i ∧
    ∀ rest, decodeBytes (highByte (encode i) :: lowByte (encode i) :: rest) = .ok (i, rest)

/-- Encoding what a word decodes to gives the word back, ignored nibbles included (R98, the spec's
decision D2; that the instruction keeps them is the model's choice: log 14), and the instruction is
well-formed. -/
def Obligations.EncodingADecodedWordGivesItBack : Prop :=
  ∀ (w : Word) (i : Instr), decode w = .ok i → i.wellFormed = true ∧ encode i = w

/-- R96: a word decodes to an instruction of a row exactly when `w AND mask = match` for that row.
(The numbers of the table are presumed: log 13; the nibbles no row looks at are the spec's decision
D2, the 34 rows D3: logs 14, 15.) -/
def Obligations.DecoderSelectsTheTableRow : Prop :=
  ∀ (j : Instr) (w : Word),
    (∃ i, decode w = .ok i ∧ i.row = j.row) ↔ w &&& j.row.mask = j.row.pattern

/-- R97: which words are `Invalid`, family by family; a word is never too short. (The numbers are
presumed: log 13; the nibbles not looked at are the spec's decision D2, the 34 rows D3: logs 14,
15.) -/
def Obligations.InvalidWordsByFamily : Prop :=
  ∀ w : Word,
    (decode w = .error .invalidFamily0 ↔
      bits w 15 12 = 0 ∧ bits w 7 0 ≠ 0xE0 ∧ bits w 7 0 ≠ 0xEE) ∧
    (decode w = .error .invalidFamily8 ↔
      bits w 15 12 = 8 ∧ bits w 3 0 ∈ [8, 9, 0xA, 0xB, 0xC, 0xD, 0xF]) ∧
    (decode w = .error .invalidFamilyE ↔
      bits w 15 12 = 0xE ∧ bits w 7 0 ≠ 0x9E ∧ bits w 7 0 ≠ 0xA1) ∧
    (decode w = .error .invalidFamilyF ↔
      bits w 15 12 = 0xF ∧
        bits w 7 0 ∉ [0x07, 0x0A, 0x15, 0x18, 0x1E, 0x29, 0x33, 0x55, 0x65]) ∧
    decode w ≠ .error .truncated

/-! ## Control transfer (40_control_flow.md) -/

/-- R121, R263: `RET` pops into PC, the popped entry stays; with an empty stack it latches
`StackUnderflow` and changes nothing else. (That `SP = 0` faults is the spec's decision D5, the
precise state and the record are D7 and D8: logs 17, 19, 6.) -/
def Obligations.ReturnPopsOrUnderflows : Prop :=
  ∀ (ign : Nibble) (s : State),
    (s.sp ≠ 0 → ∃ t, exec (.ret ign) s = .next t ∧ t.sp.val + 1 = s.sp.val ∧ t.pc = s.stack[t.sp] ∧
      (∀ k : Fin 16, t.stack[k] = s.stack[k]) ∧ FrameBut [.pc, .stack] s t) ∧
    (s.sp = 0 → ∃ t, exec (.ret ign) s = .next t ∧
      Latched t .stackUnderflow (s.pc - 2) (encode (.ret ign)) ∧ FrameBut [.fault] s t)

/-- R122, R262: `CALL` pushes the advanced PC and jumps; with `SP = 15` it latches `StackOverflow`
and changes nothing else. (The capacity of 15 is the spec's decision D5, the precise state and the
record are D7 and D8: logs 17, 19, 6.) -/
def Obligations.CallPushesOrOverflows : Prop :=
  ∀ (nnn : Addr) (s : State),
    (s.sp ≠ 15 → ∃ t, exec (.call nnn) s = .next t ∧ t.sp.val = s.sp.val + 1 ∧
      t.stack[s.sp] = s.pc ∧ (∀ k : Fin 16, k ≠ s.sp → t.stack[k] = s.stack[k]) ∧
      t.pc.toNat = nnn.toNat ∧ FrameBut [.pc, .stack] s t) ∧
    (s.sp = 15 → ∃ t, exec (.call nnn) s = .next t ∧
      Latched t .stackOverflow (s.pc - 2) (encode (.call nnn)) ∧ FrameBut [.fault] s t)

/-- R123, R129: the jumps set PC to `NNN` and to `NNN + V0`, not reduced to 12 bits. -/
def Obligations.JumpsSetThePc : Prop :=
  ∀ (nnn : Addr) (s : State),
    (∃ t, exec (.jp nnn) s = .next t ∧ t.pc.toNat = nnn.toNat ∧ FrameBut [.pc] s t) ∧
    (∃ t, exec (.jpV0 nnn) s = .next t ∧ t.pc.toNat = nnn.toNat + (s.getV 0).toNat ∧
      FrameBut [.pc] s t)

/-- R124, R125: skip on a register equal, or not equal, to the immediate byte. -/
def Obligations.SkipsCompareWithTheImmediate : Prop :=
  ∀ (x : Reg) (nn : Byte) (s : State),
    (∃ t, exec (.seImm x nn) s = .next t ∧
      t.pc = (if s.getV x = nn then s.pc + 2 else s.pc) ∧ FrameBut [.pc] s t) ∧
    (∃ t, exec (.sneImm x nn) s = .next t ∧
      t.pc = (if s.getV x ≠ nn then s.pc + 2 else s.pc) ∧ FrameBut [.pc] s t)

/-- R126, R127: skip on two registers equal, or not equal; with X = Y the one always skips and the
other never does; the ignored nibble plays no part. (That the decoder ignores it is the spec's
decision D2: log 14.) -/
def Obligations.SkipsCompareTwoRegisters : Prop :=
  ∀ (x y : Reg) (ign : Nibble) (s : State),
    (∃ t, exec (.seReg x y ign) s = .next t ∧
      t.pc = (if s.getV x = s.getV y then s.pc + 2 else s.pc) ∧ (x = y → t.pc = s.pc + 2) ∧
      FrameBut [.pc] s t) ∧
    (∃ t, exec (.sneReg x y ign) s = .next t ∧
      t.pc = (if s.getV x ≠ s.getV y then s.pc + 2 else s.pc) ∧ (x = y → t.pc = s.pc) ∧
      FrameBut [.pc] s t)

/-- A call and then a return resume after the call: PC and SP are as at the call, and of the stack
only the entry that held the return address may differ (R121, R122). -/
def Obligations.ReturnUndoesCall : Prop :=
  ∀ (nnn : Addr) (ign : Nibble) (s : State), s.sp ≠ 15 →
    ∃ t u, exec (.call nnn) s = .next t ∧ exec (.ret ign) t = .next u ∧
      u.pc = s.pc ∧ u.sp = s.sp ∧ (∀ k : Fin 16, k ≠ s.sp → u.stack[k] = s.stack[k]) ∧
      FrameBut [.stack] s u

/-! ## ALU (41_alu.md) -/

/-- R143, R145: the immediate byte, or the other register, is copied; no flag. -/
def Obligations.LoadsCopyIntoTheRegister : Prop :=
  ∀ (x y : Reg) (nn : Byte) (s : State),
    (∃ t, exec (.ldImm x nn) s = .next t ∧ t.getV x = nn ∧ RegsBut [x] s t ∧ FrameBut [.regs] s t) ∧
    (∃ t, exec (.ldReg x y) s = .next t ∧ t.getV x = s.getV y ∧ RegsBut [x] s t ∧
      FrameBut [.regs] s t)

/-- R144: the sum modulo 256, no flag. -/
def Obligations.AddImmediateWrapsWithoutFlag : Prop :=
  ∀ (x : Reg) (nn : Byte) (s : State),
    ∃ t, exec (.addImm x nn) s = .next t ∧
      (t.getV x).toNat = ((s.getV x).toNat + nn.toNat) % 256 ∧
      RegsBut [x] s t ∧ FrameBut [.regs] s t

/-- R146, R147, R148: bit by bit, no flag. -/
def Obligations.LogicIsBitwiseWithoutFlag : Prop :=
  ∀ (x y : Reg) (s : State),
    (∃ t, exec (.or x y) s = .next t ∧
      (∀ k, (t.getV x).getLsbD k = ((s.getV x).getLsbD k || (s.getV y).getLsbD k)) ∧
      RegsBut [x] s t ∧ FrameBut [.regs] s t) ∧
    (∃ t, exec (.and x y) s = .next t ∧
      (∀ k, (t.getV x).getLsbD k = ((s.getV x).getLsbD k && (s.getV y).getLsbD k)) ∧
      RegsBut [x] s t ∧ FrameBut [.regs] s t) ∧
    (∃ t, exec (.xor x y) s = .next t ∧
      (∀ k, (t.getV x).getLsbD k = ((s.getV x).getLsbD k ^^ (s.getV y).getLsbD k)) ∧
      RegsBut [x] s t ∧ FrameBut [.regs] s t)

/-- R149 with a destination other than VF: the sum modulo 256, VF is 1 if the unsigned sum exceeds
255 and else 0. Y may be VF or X. -/
def Obligations.AddSetsCarry : Prop :=
  ∀ (x y : Reg) (s : State), x ≠ vf →
    ∃ t, exec (.addReg x y) s = .next t ∧
      (t.getV x).toNat = ((s.getV x).toNat + (s.getV y).toNat) % 256 ∧
      (t.getV vf).toNat = (if 255 < (s.getV x).toNat + (s.getV y).toNat then 1 else 0) ∧
      RegsBut [x, vf] s t ∧ FrameBut [.regs] s t

/-- R150, R152 with a destination other than VF: the difference modulo 256, VF is 1 if there is no
borrow (the minuend is not less) and else 0. -/
def Obligations.SubtractionsSetNoBorrow : Prop :=
  ∀ (x y : Reg) (s : State), x ≠ vf →
    (∃ t, exec (.sub x y) s = .next t ∧
      ((t.getV x).toNat : Int) = ((s.getV x).toNat - (s.getV y).toNat : Int) % 256 ∧
      (t.getV vf).toNat = (if (s.getV y).toNat ≤ (s.getV x).toNat then 1 else 0) ∧
      RegsBut [x, vf] s t ∧ FrameBut [.regs] s t) ∧
    (∃ t, exec (.subn x y) s = .next t ∧
      ((t.getV x).toNat : Int) = ((s.getV y).toNat - (s.getV x).toNat : Int) % 256 ∧
      (t.getV vf).toNat = (if (s.getV x).toNat ≤ (s.getV y).toNat then 1 else 0) ∧
      RegsBut [x, vf] s t ∧ FrameBut [.regs] s t)

/-- R151, R153 with a destination other than VF: `V[X]` shifted by one in place, VF the bit shifted
out; Y is ignored. -/
def Obligations.ShiftsMoveOneBitIntoTheFlag : Prop :=
  ∀ (x y : Reg) (s : State), x ≠ vf →
    (∃ t, exec (.shr x y) s = .next t ∧ (t.getV x).toNat = (s.getV x).toNat / 2 ∧
      (t.getV vf).toNat = (s.getV x).toNat % 2 ∧ RegsBut [x, vf] s t ∧ FrameBut [.regs] s t) ∧
    (∃ t, exec (.shl x y) s = .next t ∧ (t.getV x).toNat = (s.getV x).toNat * 2 % 256 ∧
      (t.getV vf).toNat = (s.getV x).toNat / 128 ∧ RegsBut [x, vf] s t ∧ FrameBut [.regs] s t)

/-- R141 with the destination VF: the five flag-writing operations leave the arithmetic result in
VF, not the flag, and change no other register. (The order of the two writes is the spec's decision
D4: log 16.) -/
def Obligations.ResultRemainsWhenTheDestinationIsVf : Prop :=
  ∀ (y : Reg) (s : State),
    (∃ t, exec (.addReg vf y) s = .next t ∧
      (t.getV vf).toNat = ((s.getV vf).toNat + (s.getV y).toNat) % 256 ∧
      RegsBut [vf] s t ∧ FrameBut [.regs] s t) ∧
    (∃ t, exec (.sub vf y) s = .next t ∧
      ((t.getV vf).toNat : Int) = ((s.getV vf).toNat - (s.getV y).toNat : Int) % 256 ∧
      RegsBut [vf] s t ∧ FrameBut [.regs] s t) ∧
    (∃ t, exec (.subn vf y) s = .next t ∧
      ((t.getV vf).toNat : Int) = ((s.getV y).toNat - (s.getV vf).toNat : Int) % 256 ∧
      RegsBut [vf] s t ∧ FrameBut [.regs] s t) ∧
    (∃ t, exec (.shr vf y) s = .next t ∧ (t.getV vf).toNat = (s.getV vf).toNat / 2 ∧
      RegsBut [vf] s t ∧ FrameBut [.regs] s t) ∧
    (∃ t, exec (.shl vf y) s = .next t ∧ (t.getV vf).toNat = (s.getV vf).toNat * 2 % 256 ∧
      RegsBut [vf] s t ∧ FrameBut [.regs] s t)

/-- R154: one fresh byte is drawn and masked; whatever the draw, no bit outside `NN` is set. (The
draw is a free value: log 10.) -/
def Obligations.RandomByteIsMasked : Prop :=
  ∀ (x : Reg) (nn : Byte) (s : State),
    ∃ t, exec (.rnd x nn) s = .next t ∧
      (∀ k, (t.getV x).getLsbD k = ((Config.freeDraw s.draws).getLsbD k && nn.getLsbD k)) ∧
      t.draws = s.draws + 1 ∧ RegsBut [x] s t ∧ FrameBut [.regs, .draws] s t

/-! ## Index register and memory (42_index_memory.md) -/

/-- R172, R174: `I` becomes `NNN`, or five times the low nibble of the register. -/
def Obligations.IndexLoads : Prop :=
  ∀ (nnn : Addr) (x : Reg) (s : State),
    (∃ t, exec (.ldI nnn) s = .next t ∧ t.i.toNat = nnn.toNat ∧ FrameBut [.index] s t) ∧
    (∃ t, exec (.ldF x) s = .next t ∧ t.i.toNat = (s.getV x).toNat % 16 * 5 ∧
      FrameBut [.index] s t)

/-- R173: `I` plus the register modulo 65536, no flag, no fault. (The width of the sum is the spec's
decision D31: log 32.) -/
def Obligations.AddToIndexWrapsWithoutFlag : Prop :=
  ∀ (x : Reg) (s : State),
    ∃ t, exec (.addI x) s = .next t ∧ t.i.toNat = (s.i.toNat + (s.getV x).toNat) % 65536 ∧
      FrameBut [.index] s t

/-- R175: the three decimal digits, hundreds first, at `I`, `I + 1`, `I + 2`; every other byte as
before; `MemRangeData` and no byte written when one of the addresses is 4096 or more. (The fault is
the spec's decision D6, that it has no effect and its record are D7 and D8, that `I` is unchanged is
D12: logs 18, 19, 6, 22.) -/
def Obligations.BcdStoresThreeDigits : Prop :=
  ∀ (x : Reg) (s : State), s.canonical →
    (s.i.toNat + 2 < 4096 → ∃ t, exec (.ldB x) s = .next t ∧
      (t.mem.read (effectiveAddr s 0)).toNat = (s.getV x).toNat / 100 ∧
      (t.mem.read (effectiveAddr s 1)).toNat = (s.getV x).toNat / 10 % 10 ∧
      (t.mem.read (effectiveAddr s 2)).toNat = (s.getV x).toNat % 10 ∧
      (∀ a, (∀ k, k < 3 → a ≠ effectiveAddr s k) → t.mem.read a = s.mem.read a) ∧
      FrameBut [.memory] s t) ∧
    (4096 ≤ s.i.toNat + 2 → ∃ t, exec (.ldB x) s = .next t ∧
      Latched t .memRangeData (s.pc - 2) (encode (.ldB x)) ∧ FrameBut [.fault] s t)

/-- R176: the registers up to X inclusive are stored from `I` on, addresses modulo 4096; every other
byte as before. (That `I` is unchanged is the spec's decision D12: log 22.) -/
def Obligations.DumpStoresRegistersWrapping : Prop :=
  ∀ (x : Reg) (s : State), s.canonical →
    ∃ t, exec (.ldMemVx x) s = .next t ∧
      (∀ k : Reg, k ≤ x → t.mem.read (wrapAddr s k) = s.getV k) ∧
      (∀ a, (∀ k : Reg, k ≤ x → a ≠ wrapAddr s k) → t.mem.read a = s.mem.read a) ∧
      FrameBut [.memory] s t

/-- R177: the registers up to X inclusive are loaded from `I` on, addresses modulo 4096; the
registers above X are unchanged. (That `I` is unchanged is the spec's decision D12: log 22.) -/
def Obligations.LoadReadsRegistersWrapping : Prop :=
  ∀ (x : Reg) (s : State),
    ∃ t, exec (.ldVxMem x) s = .next t ∧
      (∀ k : Reg, k ≤ x → t.getV k = s.mem.read (wrapAddr s k)) ∧
      (∀ r : Reg, x < r → t.getV r = s.getV r) ∧ FrameBut [.regs] s t

/-- A register load after a register dump through the same `I` and memory gives the dumped registers
back, whatever the registers held in between (R176 "inverse", R177). -/
def Obligations.LoadInvertsDump : Prop :=
  ∀ (x : Reg) (s u : State), s.canonical →
    ∃ t, exec (.ldMemVx x) s = .next t ∧
      (u.i = t.i → u.mem = t.mem →
        ∃ w, exec (.ldVxMem x) u = .next w ∧ ∀ k : Reg, k ≤ x → w.getV k = s.getV k)

/-! ## Display (43_display.md) -/

/-- R193: every pixel off, nothing else. -/
def Obligations.ClearTurnsEveryPixelOff : Prop :=
  ∀ (ign : Nibble) (s : State),
    ∃ t, exec (.cls ign) s = .next t ∧ (∀ px py, t.fb.pixel px py = false) ∧
      FrameBut [.display] s t

/-- R191, R192, R194: a drawn sprite toggles exactly the pixels in the grid that a 1 bit lands on;
VF is 1 exactly when one of them was on, else 0; nothing else changes. (Bit 7 as the leftmost
column is the spec's decision D20, that `I` is unchanged is D12: logs 29, 22.) -/
def Obligations.DrawTogglesTheCoveredPixels : Prop :=
  ∀ (x y : Reg) (n : Nat) (s : State), ¬ outOfRange (effectiveAddr s 0) n →
    ∃ t, exec (.drw x y n) s = .next t ∧
      (∀ px py, px < 64 → py < 32 →
        (SpriteCovers s x y n px py → t.fb.pixel px py = !s.fb.pixel px py) ∧
        (¬ SpriteCovers s x y n px py → t.fb.pixel px py = s.fb.pixel px py)) ∧
      (t.getV vf = 1 ∨ t.getV vf = 0) ∧
      (t.getV vf = 1 ↔ ∃ px py, px < 64 ∧ py < 32 ∧ SpriteCovers s x y n px py ∧
        s.fb.pixel px py = true) ∧
      RegsBut [vf] s t ∧ FrameBut [.regs, .display] s t

/-- R265: `DRW` and `LD B` with a data address of 4096 or above latch `MemRangeData` at the
instruction with its word; PC stays advanced and no byte, pixel or register (VF included) is
changed. The register dump and load never latch a fault. (Which accesses fault is the spec's
decision D6, that every row is checked is D27, no effect and the record are D7 and D8: logs 18, 30,
19, 6.) -/
def Obligations.DataRangeFaults : Prop :=
  ∀ (x y : Reg) (n : Nat) (s : State),
    (1 ≤ n ∧ 4096 ≤ s.i.toNat + n - 1 → ∃ t, exec (.drw x y n) s = .next t ∧
      Latched t .memRangeData (s.pc - 2) (encode (.drw x y n)) ∧ FrameBut [.fault] s t) ∧
    (4096 ≤ s.i.toNat + 2 → ∃ t, exec (.ldB x) s = .next t ∧
      Latched t .memRangeData (s.pc - 2) (encode (.ldB x)) ∧ FrameBut [.fault] s t) ∧
    (∃ t, exec (.ldMemVx x) s = .next t ∧ StatePart.fault.same s t) ∧
    (∃ t, exec (.ldVxMem x) s = .next t ∧ StatePart.fault.same s t)

/-- R195: a sprite of zero bits drawn after a clear leaves every pixel off; the same sprite drawn
twice, with coordinates not in VF, restores every pixel. -/
def Obligations.SpriteRoundTrips : Prop :=
  (∀ (ign : Nibble) (x y : Reg) (n : Nat) (s : State), ¬ outOfRange (effectiveAddr s 0) n →
    (∀ r, r < n → s.mem.read (effectiveAddr s r) = 0) →
    ∃ t u, exec (.cls ign) s = .next t ∧ exec (.drw x y n) t = .next u ∧
      (∀ px py, u.fb.pixel px py = false) ∧ u.getV vf = 0) ∧
  (∀ (x y : Reg) (n : Nat) (s : State), ¬ outOfRange (effectiveAddr s 0) n → x ≠ vf → y ≠ vf →
    ∃ t u, exec (.drw x y n) s = .next t ∧ exec (.drw x y n) t = .next u ∧
      ∀ px py, u.fb.pixel px py = s.fb.pixel px py)

/-! ## Keypad and timers (44_keypad_timers.md) -/

/-- R212, R213 (R210): skip on the key named by the low nibble pressed, or not pressed. -/
def Obligations.KeySkipsTestTheLevel : Prop :=
  ∀ (x : Reg) (s : State),
    (∃ t, exec (.skp x) s = .next t ∧
      t.pc = (if s.key.getLsbD ((s.getV x).toNat % 16) = true then s.pc + 2 else s.pc) ∧
      FrameBut [.pc] s t) ∧
    (∃ t, exec (.sknp x) s = .next t ∧
      t.pc = (if s.key.getLsbD ((s.getV x).toNat % 16) = false then s.pc + 2 else s.pc) ∧
      FrameBut [.pc] s t)

/-- R214, R216, R217: the plain transfers between a register and the timers. -/
def Obligations.TimerTransfers : Prop :=
  ∀ (x : Reg) (s : State),
    (∃ t, exec (.ldVxDt x) s = .next t ∧ t.getV x = s.dt ∧ RegsBut [x] s t ∧
      FrameBut [.regs] s t) ∧
    (∃ t, exec (.ldDtVx x) s = .next t ∧ t.dt = s.getV x ∧ FrameBut [.delay] s t) ∧
    (∃ t, exec (.ldStVx x) s = .next t ∧ t.st = s.getV x ∧ FrameBut [.sound] s t)

/-- R215: with release edges the lowest such key goes into the register and PC stays advanced; with
none PC goes back by 2 and nothing else changes. (The lowest index is the spec's decision D11:
log 21.) -/
def Obligations.KeyWaitTakesTheLowestReleasedKey : Prop :=
  ∀ (x : Reg) (s : State),
    (∀ k, k < 16 → s.keyPrev.getLsbD k = true → s.key.getLsbD k = false →
      (∀ j, j < k → ¬ (s.keyPrev.getLsbD j = true ∧ s.key.getLsbD j = false)) →
      ∃ t, exec (.ldVxK x) s = .next t ∧ (t.getV x).toNat = k ∧ RegsBut [x] s t ∧
        FrameBut [.regs] s t) ∧
    ((∀ k, k < 16 → ¬ (s.keyPrev.getLsbD k = true ∧ s.key.getLsbD k = false)) →
      ∃ t, exec (.ldVxK x) s = .next t ∧ t.pc = s.pc - 2 ∧ FrameBut [.pc] s t)

/-- R215: while no release edge exists, a slot that executes the key wait leaves all state as it
found it, but for one slot of the tick used up; after the last slot of the tick the timers are
decremented as after any other (R235). (One slot a step is the model's choice: log 3.) -/
def Obligations.KeyWaitReexecutes : Prop :=
  ∀ (x : Reg) (s : State), s.slots ≠ 0 → s.faultValid = false → s.pc.toNat ≤ 0xFFE →
    decode (s.mem.fetchWord s.pc.toNat) = .ok (.ldVxK x) →
    (∀ k, k < 16 → ¬ (s.keyPrev.getLsbD k = true ∧ s.key.getLsbD k = false)) →
    (1 < s.slots → step s = .next { s with slots := s.slots - 1 }) ∧
    (s.slots = 1 → ∃ t, step s = .next t ∧
      t = { s with slots := 0, dt := t.dt, st := t.st } ∧
      t.dt.toNat = s.dt.toNat - 1 ∧ t.st.toNat = s.st.toNat - 1)

/-! ## All instructions -/

/-- Every instruction, in every state, has a next state: a latched fault is one too (C5 of
90_conflicts.md, R281). (That a fault is a next state and not the end of the run is the model's
reading of R268: log 5.) -/
def Obligations.EveryInstructionCompletes : Prop :=
  ∀ (i : Instr) (s : State), ∃ t, exec i s = .next t

/-- No instruction writes the keys, `LOADED`, `ROMLEN`, the configuration, the position within the
tick, or what passes between host and machine (R31, R32, R33, R34, R30). (The position in the tick
and the two lists between host and machine are the model's own fields: logs 1, 3, 4.) -/
def Obligations.InstructionsLeaveTheHostsStateAlone : Prop :=
  ∀ (i : Instr) (s t : State), exec i s = .next t →
    ∀ p, p ∈ [StatePart.keys, .program, .config, .tick, .host] → p.same s t

/-- What an instruction changes it is named for: only these write `I`, the stack, memory, the
display, the delay timer, the sound timer, and consume a random byte (R22, R24, R28, R29, R26, R27,
R41; R154, R245 for the random byte). (The random bytes consumed are a count of the model's own:
log 10.) -/
def Obligations.OnlyTheNamedInstructionsWrite : Prop :=
  ∀ (i : Instr) (s t : State), exec i s = .next t →
    (¬ StatePart.index.same s t → (∃ nnn, i = .ldI nnn) ∨ (∃ x, i = .addI x) ∨ ∃ x, i = .ldF x) ∧
    (¬ StatePart.stack.same s t → (∃ nnn, i = .call nnn) ∨ ∃ g, i = .ret g) ∧
    (¬ StatePart.memory.same s t → (∃ x, i = .ldB x) ∨ ∃ x, i = .ldMemVx x) ∧
    (¬ StatePart.display.same s t → (∃ g, i = .cls g) ∨ ∃ x y n, i = .drw x y n) ∧
    (¬ StatePart.delay.same s t → ∃ x, i = .ldDtVx x) ∧
    (¬ StatePart.sound.same s t → ∃ x, i = .ldStVx x) ∧
    (¬ StatePart.draws.same s t → ∃ x nn, i = .rnd x nn)

/-- R21: VF changes only as the flag of the six flag-writing instructions, as the destination X = 15
of an instruction that writes `V[X]`, or as the last register of a register load. -/
def Obligations.OnlySixInstructionsWriteTheFlag : Prop :=
  ∀ (i : Instr) (s t : State), exec i s = .next t → t.getV vf ≠ s.getV vf →
    (∃ x y, i = .addReg x y ∨ i = .sub x y ∨ i = .shr x y ∨ i = .subn x y ∨ i = .shl x y) ∨
    (∃ x y n, i = .drw x y n) ∨
    (∃ nn, i = .ldImm vf nn ∨ i = .addImm vf nn ∨ i = .rnd vf nn) ∨
    (∃ y, i = .ldReg vf y ∨ i = .or vf y ∨ i = .and vf y ∨ i = .xor vf y) ∨
    i = .ldVxDt vf ∨ i = .ldVxK vf ∨ i = .ldVxMem vf

/-- R120: an instruction that does not assign PC leaves it at `a + 2`; one that does moves it to its
target, two further, two back, or to a popped address. (That the sum of `JP V0` is not reduced to 12
bits is the spec's decision D31: log 32.) -/
def Obligations.OnlyControlTransfersMoveThePc : Prop :=
  ∀ (i : Instr) (s t : State), exec i s = .next t → t.pc ≠ s.pc →
    (∃ nnn, (i = .jp nnn ∨ i = .call nnn) ∧ t.pc.toNat = nnn.toNat) ∨
    (∃ nnn, i = .jpV0 nnn ∧ t.pc.toNat = nnn.toNat + (s.getV 0).toNat) ∨
    (∃ g, i = .ret g ∧ t.pc = s.stack[t.sp]) ∨
    ((∃ x nn, i = .seImm x nn ∨ i = .sneImm x nn) ∧ t.pc = s.pc + 2) ∨
    ((∃ x y g, i = .seReg x y g ∨ i = .sneReg x y g) ∧ t.pc = s.pc + 2) ∨
    ((∃ x, i = .skp x ∨ i = .sknp x) ∧ t.pc = s.pc + 2) ∨
    ((∃ x, i = .ldVxK x) ∧ t.pc = s.pc - 2)

/-- R25: `STACK[15]` is never written by a program, and SP moves by at most one. -/
def Obligations.LastStackEntryIsNeverWritten : Prop :=
  ∀ (i : Instr) (s t : State), exec i s = .next t →
    t.stack[(15 : Fin 16)] = s.stack[(15 : Fin 16)] ∧
    (t.sp.val = s.sp.val ∨ t.sp.val = s.sp.val + 1 ∨ t.sp.val + 1 = s.sp.val)

/-- A program cannot see `ST`, the colours, `ROMLEN` or the host's traffic: from two states alike
but for these, an instruction leads to two states alike but for these (R27, R30, R32). (The host's
traffic is the model's two lists: logs 1, 4.) -/
def Obligations.ProgramsCannotSeeTheHostsFields : Prop :=
  ∀ (i : Instr) (s s' : State), s.asSeenByPrograms = s'.asSeenByPrograms →
    ∃ t t', exec i s = .next t ∧ exec i s' = .next t' ∧ t.asSeenByPrograms = t'.asSeenByPrograms

/-! ## The step (45_engine_tick.md) -/

/-- R234: when the bytes at PC decode to an instruction, a step inside a tick is the meaning of that
instruction with PC advanced by 2, and then the tick's bookkeeping: a latched fault ends the tick,
the last slot is followed by the timer decrement, any other slot leaves one fewer. (One slot a step
is the model's choice: log 3.) -/
def Obligations.StepRunsTheDecodedInstruction : Prop :=
  ∀ (s : State) (i : Instr) (rest : List Byte), s.slots ≠ 0 → s.pc.toNat ≤ 0xFFE →
    decodeBytes (s.mem.read s.pc.toNat :: s.mem.read (s.pc.toNat + 1) :: rest) = .ok (i, rest) →
    step s = endSlot (exec i { s with pc := s.pc + 2 }) ∧
    ∀ t, exec i { s with pc := s.pc + 2 } = .next t →
      (t.faultValid = true → step s = .next { t with slots := 0 }) ∧
      (t.faultValid = false → t.slots ≤ 1 → step s =
        .next { t with slots := 0, dt := timerDown t.dt, st := timerDown t.st }) ∧
      (t.faultValid = false → 1 < t.slots → step s = .next { t with slots := t.slots - 1 })

/-- R264: a fetch that would touch address 4096 latches `MemRangeFetch` at PC with word 0 and PC is
not advanced; R268: the tick ends with no timer decrement. (No wrap to address 0 is the spec's
decision D6, the unchanged state and the record are D7 and D8, the end of the tick is D9, one slot a
step the model's choice: logs 18, 19, 20, 3.) -/
def Obligations.FetchPastMemoryFaults : Prop :=
  ∀ s : State, s.slots ≠ 0 → 0xFFE < s.pc.toNat →
    ∃ t, step s = .next t ∧ Latched t .memRangeFetch s.pc 0 ∧ t.slots = 0 ∧
      FrameBut [.fault, .tick] s t

/-- R261: a word that decodes to `Invalid` latches `InvalidOpcode` with its address and raw word, PC
is past it and everything else is as before; R268: the tick ends with no timer decrement. (No effect
and the record are the spec's decisions D7 and D8, the end of the tick is D9, one slot a step the
model's choice: logs 19, 20, 3.) -/
def Obligations.InvalidWordFaults : Prop :=
  ∀ (s : State) (e : DecodeError), s.slots ≠ 0 → s.pc.toNat ≤ 0xFFE →
    decode (s.mem.fetchWord s.pc.toNat) = .error e →
    ∃ t, step s = .next t ∧ Latched t .invalidOpcode s.pc (s.mem.fetchWord s.pc.toNat) ∧
      t.pc.toNat = s.pc.toNat + 2 ∧ t.slots = 0 ∧ FrameBut [.fault, .tick, .pc] s t

/-- R267: faults are precise. At a fault the state is exactly the state before the slot but for PC
advanced by 2 (not at a fetch fault), the record, which holds the instruction's address and the very
word fetched (0 at a fetch fault), and the end of the tick. (All-or-nothing is the spec's decision
D7, the record is D8, the end of the tick D9, one slot a step the model's choice: logs 19, 20, 3.) -/
def Obligations.FaultsArePrecise : Prop :=
  ∀ s t : State, s.slots ≠ 0 → s.faultValid = false → step s = .next t → t.faultValid = true →
    t = { s with
      pc := if t.faultCode = .memRangeFetch then s.pc else s.pc + 2
      faultValid := true
      faultCode := t.faultCode
      faultAddr := s.pc
      faultWord := if t.faultCode = .memRangeFetch then 0 else s.mem.fetchWord s.pc.toNat
      slots := 0 }

/-- R260, R269: a slot latches a fault exactly on the condition of one of the five, tested in the
order fetch, decode, instruction. (Codes and priority are the spec's decisions D8 and D30, which
accesses fault and when are D6, D27 and D5, one slot a step the model's choice: logs 19, 18, 30, 17,
3.) -/
def Obligations.FaultsExactlyOnTheirConditions : Prop :=
  ∀ s t : State, s.slots ≠ 0 → s.faultValid = false → step s = .next t →
    (Latched t .memRangeFetch t.faultAddr t.faultWord ↔ 0xFFE < s.pc.toNat) ∧
    (Latched t .invalidOpcode t.faultAddr t.faultWord ↔ s.pc.toNat ≤ 0xFFE ∧
      ∃ e, decode (s.mem.fetchWord s.pc.toNat) = .error e) ∧
    (Latched t .stackOverflow t.faultAddr t.faultWord ↔ s.pc.toNat ≤ 0xFFE ∧ s.sp = 15 ∧
      ∃ nnn, decode (s.mem.fetchWord s.pc.toNat) = .ok (.call nnn)) ∧
    (Latched t .stackUnderflow t.faultAddr t.faultWord ↔ s.pc.toNat ≤ 0xFFE ∧ s.sp = 0 ∧
      ∃ g, decode (s.mem.fetchWord s.pc.toNat) = .ok (.ret g)) ∧
    (Latched t .memRangeData t.faultAddr t.faultWord ↔ s.pc.toNat ≤ 0xFFE ∧
      ((∃ x, decode (s.mem.fetchWord s.pc.toNat) = .ok (.ldB x) ∧ 4096 ≤ s.i.toNat + 2) ∨
        ∃ x y n, decode (s.mem.fetchWord s.pc.toNat) = .ok (.drw x y n) ∧ 1 ≤ n ∧
          4096 ≤ s.i.toNat + n - 1))

/-- R268, R238, R272: a slot that latches a fault ends the tick with no timer decrement; and a tick
asked for while a fault is latched, however it came to be, changes nothing but that it has been
taken. (The latching faulted state is the spec's decision D9, one slot a step the model's choice:
logs 20, 3.) -/
def Obligations.FaultEndsTheTickAndLaterTicksDoNothing : Prop :=
  (∀ s t : State, s.slots ≠ 0 → s.faultValid = false → step s = .next t → t.faultValid = true →
    t.slots = 0 ∧ t.dt = s.dt ∧ t.st = s.st ∧ t.inbox = s.inbox) ∧
  (∀ (s : State) (keys : BitVec 16) (rest : List HostOp), s.slots = 0 → s.faultValid = true →
    s.inbox = .tick keys :: rest → step s = .next { s with inbox := rest })

/-- R237, R236, R233: a tick with no program does nothing; a paused tick does the resync alone; a
running tick does the resync and has `IPT` slots to run. (The slots are the model's form of R38(b):
log 3.) -/
def Obligations.TickStartsByRunState : Prop :=
  ∀ (s : State) (keys : BitVec 16) (rest : List HostOp),
    s.slots = 0 → s.inbox = .tick keys :: rest → s.faultValid = false →
    (s.loaded = false → step s = .next { s with inbox := rest }) ∧
    (s.loaded = true → s.pause = true →
      step s = .next { s with inbox := rest, keyPrev := s.key, key := keys }) ∧
    (s.loaded = true → s.pause = false → s.ipt ≠ 0 →
      step s = .next { s with inbox := rest, keyPrev := s.key, key := keys, slots := s.ipt })

/-- R235: the last slot of a tick that ends without a fault is followed by one decrement of each
nonzero timer; no earlier slot is; with `IPT = 0` a running tick is resync and decrement. (That
faulted ticks do not decrement is the spec's decision D9, that `IPT` may be 0 is D18, one slot a step
the model's choice: logs 20, 27, 3.) -/
def Obligations.TimersCountDownOncePerTick : Prop :=
  (∀ s u : State, s.slots ≠ 0 → slotStep s = .next u → u.faultValid = false →
    ∃ t, step s = .next t ∧
      (s.slots = 1 → t.slots = 0 ∧ t.dt.toNat = u.dt.toNat - 1 ∧ t.st.toNat = u.st.toNat - 1) ∧
      (s.slots ≠ 1 → t.slots + 1 = s.slots ∧ t.dt = u.dt ∧ t.st = u.st)) ∧
  (∀ (s : State) (keys : BitVec 16) (rest : List HostOp), s.slots = 0 →
    s.inbox = .tick keys :: rest → s.faultValid = false → s.loaded = true → s.pause = false →
    s.ipt = 0 →
    ∃ t, step s = .next t ∧ t.key = keys ∧ t.keyPrev = s.key ∧ t.dt.toNat = s.dt.toNat - 1 ∧
      t.st.toNat = s.st.toNat - 1 ∧ t.slots = 0 ∧ t.inbox = rest ∧ t.outbox = s.outbox ∧
      FrameBut [.keys, .delay, .sound, .host] s t)

/-- R232, R77: the tick asked for, performed step by step, is the whole tick of R232 (resync, `IPT`
slots, timer decrement, cut short by a fault), after at most `1 + IPT` steps. (Spreading a tick over
steps is the model's own choice: log 3.) -/
def Obligations.SteppedTickIsTheWholeTick : Prop :=
  ∀ (s : State) (keys : BitVec 16) (rest : List HostOp),
    s.slots = 0 → s.inbox = .tick keys :: rest →
    ∃ k, 1 ≤ k ∧ k ≤ 1 + s.ipt ∧
      Host.Core.run Sys2Proof.core k s = wholeTick keys { s with inbox := rest }

/-- The machine never stops, but for the four host operations whose precondition fails between
ticks (93_implementation_defined.md U7, U8, U20: logs 25, 26, 28; `power_on` while a fault is
latched, which R271 leaves only by the three operations it names: log 41). -/
def Obligations.OnlyHostPreconditionsHaveNoMove : Prop :=
  ∀ s : State, (∃ t, step s = .next t) ∨
    (s.slots = 0 ∧ ∃ op rest, s.inbox = op :: rest ∧
      ((∃ image, op = .loadRom image ∧ s.loaded = true ∧ step s = .refused .loadWhileLoaded) ∨
        (∃ c, op = .setPalette c c ∧ step s = .refused .paletteColorsEqual) ∨
        (op = .clearFault ∧ s.faultValid = false ∧ step s = .refused .noFaultToClear) ∨
        (op = .powerOn ∧ s.faultValid = true ∧ step s = .refused .powerOnWhileFaulted)))

/-! ## Invariants -/

/-- Memory keeps its canonical form: addresses strictly rising and in 0x000 to 0xFFF (R60). (The form
is the model's: log 7.) -/
def Obligations.StepKeepsMemoryCanonical : Prop :=
  ∀ s t : State, s.canonical → step s = .next t → t.canonical

/-- R42: PC stays at or below 0x10FE and every stack entry at or below 0x1000. -/
def Obligations.StepKeepsPcBounded : Prop :=
  ∀ s t : State, s.pcBounded → step s = .next t → t.pcBounded

/-- R36, R35, R30, R32: slots run only in the running state, the fault record is empty exactly when
no fault is latched, the colours differ, the image length fits. (The slots are the model's form of
R38(b), log 3; the record, the unequal colours and the refusals behind them are the spec's decisions
D8, D9, D16, D19: logs 19, 20, 25, 26.) -/
def Obligations.StepKeepsCoherent : Prop :=
  ∀ s t : State, s.coherent → step s = .next t → t.coherent

/-- While no program is loaded the machine is as after reset, but for the configuration (R239:
"registers keep the reset values they necessarily have in the halted state"). (What the resets leave
is the spec's decisions D13, D14, D15: logs 11, 12, 23, 24.) -/
def Obligations.StepKeepsHaltedAsReset : Prop :=
  ∀ s t : State, s.coherent → s.haltedAsReset → step s = .next t → t.haltedAsReset

/-- The state after reset meets every invariant, with the default of `FONT` and with any other value
of it (R8). (The zero values and the two unequal colours are choices: logs 9, 11, 12.) -/
def Obligations.ResetMeetsTheInvariants : Prop :=
  (State.reset.canonical ∧ State.reset.pcBounded ∧ State.reset.coherent ∧
    State.reset.haltedAsReset) ∧
  ∀ font : Font, (State.resetWith font).canonical ∧ (State.resetWith font).pcBounded ∧
    (State.resetWith font).coherent ∧ (State.resetWith font).haltedAsReset

/-! ## The host's operations (45_engine_tick.md R231; 70_reset_and_hazards.md) -/

/-- R300 (R40): what `power_on` leaves, in every run state but the faulted one: PC at 0x200,
registers, stack, timers and keys zero, the display off, the machine's `FONT` at 0x000 to 0x04F and
zero above, no program, no fault, `IPT = 11`, not paused, and the two default colours, which differ.
While a fault is latched `power_on` has no move, because R271 says what alone leaves that state.
(The values the source does not give are the spec's decisions D13, D14, D26 and D9: logs 11, 12. The
default colours are open, D19: log 9. That the count of random bytes and the host's lists are kept is
the model's choice: log 23. In which run states `power_on` may be invoked is the model's choice:
log 41.) -/
def Obligations.PowerOnInstallsTheResetValues : Prop :=
  ∀ (s : State) (rest : List HostOp), s.slots = 0 → s.inbox = .powerOn :: rest →
    (s.faultValid = false → ∃ t, step s = .next t ∧
      t.pc = 0x200 ∧ t.sp = 0 ∧ t.i = 0 ∧ t.dt = 0 ∧ t.st = 0 ∧ (∀ r, t.getV r = 0) ∧ (∀ k : Fin 16, t.stack[k] = 0) ∧
      (∀ a, t.mem.read a = if h : a < 80 then s.mem.font[a] else 0) ∧
      (∀ px py, t.fb.pixel px py = false) ∧
      t.key = 0 ∧ t.keyPrev = 0 ∧ t.loaded = false ∧ t.romLen = 0 ∧ t.pause = false ∧ t.ipt = 11 ∧
      t.colorOn = Config.colorOnDefault ∧ t.colorOff = Config.colorOffDefault ∧
      t.colorOn ≠ t.colorOff ∧ t.faultValid = false ∧ t.faultCode = .none ∧ t.faultAddr = 0 ∧
      t.faultWord = 0 ∧ t.mem.font = s.mem.font ∧ t.slots = 0 ∧ t.draws = s.draws ∧
      t.inbox = rest ∧ t.outbox = s.outbox) ∧
    (s.faultValid = true → step s = .refused .powerOnWhileFaulted)

/-- R301, R302, R242, R271: the three operations that leave a fault. The hard reset zeroes memory
and writes the font, unloads the program and resets the rest but the configuration; the soft reset
keeps memory, the program and the configuration; both clear the whole fault record; `clear_fault`
clears the record and nothing else. The host's traffic and the count of random bytes stay (the
model's own: log 23). A step that leaves the faulted state performs one of the three. (The readings
are the spec's decisions D9, D13, D14, D15: logs 20, 11, 12, 23, 24.) -/
def Obligations.ResetsAndClearFault : Prop :=
  (∀ (s : State) (rest : List HostOp), s.slots = 0 →
    (s.inbox = .hardReset :: rest → ∃ t, step s = .next t ∧
      (∀ a, t.mem.read a = if h : a < 80 then s.mem.font[a] else 0) ∧
      t.loaded = false ∧ t.romLen = 0 ∧ StatePart.config.same s t ∧
      t.pc = 0x200 ∧ t.sp = 0 ∧ t.i = 0 ∧ t.dt = 0 ∧ t.st = 0 ∧ (∀ r, t.getV r = 0) ∧
      (∀ k : Fin 16, t.stack[k] = 0) ∧ (∀ px py, t.fb.pixel px py = false) ∧ t.key = 0 ∧
      t.keyPrev = 0 ∧ t.faultValid = false ∧ t.faultCode = .none ∧ t.faultAddr = 0 ∧
      t.faultWord = 0 ∧ t.slots = 0 ∧ t.draws = s.draws ∧ t.inbox = rest ∧ t.outbox = s.outbox) ∧
    (s.inbox = .softReset :: rest → ∃ t, step s = .next t ∧
      StatePart.memory.same s t ∧ StatePart.program.same s t ∧ StatePart.config.same s t ∧
      t.pc = 0x200 ∧ t.sp = 0 ∧ t.i = 0 ∧ t.dt = 0 ∧ t.st = 0 ∧ (∀ r, t.getV r = 0) ∧
      (∀ k : Fin 16, t.stack[k] = 0) ∧ (∀ px py, t.fb.pixel px py = false) ∧ t.key = 0 ∧
      t.keyPrev = 0 ∧ t.faultValid = false ∧ t.faultCode = .none ∧ t.faultAddr = 0 ∧
      t.faultWord = 0 ∧ t.slots = 0 ∧ t.draws = s.draws ∧ t.inbox = rest ∧ t.outbox = s.outbox) ∧
    (s.inbox = .clearFault :: rest → s.faultValid = true →
      step s = .next { s with
        inbox := rest, faultValid := false, faultCode := .none, faultAddr := 0, faultWord := 0 })) ∧
  ∀ s t : State, s.faultValid = true → step s = .next t → t.faultValid = false →
    s.slots = 0 ∧ ∃ op rest, s.inbox = op :: rest ∧ op ∈ [HostOp.hardReset, .softReset, .clearFault]

/-- R239, R266: an image of at most 3584 bytes lands at 0x200, the other bytes, the registers and
the configuration stay, and the program counts as loaded; an unreadable or oversized image is
answered with `LoadError` and changes nothing. (R239 names only `LoadError` as an answer: that the
answers are a list and that a success is answered too is the model's choice, log 4. That it is legal
only while no program is loaded and takes length 0 is the spec's decision D16: log 25.) -/
def Obligations.LoadRomPlacesTheImage : Prop :=
  ∀ (s : State) (image : Image) (rest : List HostOp), s.canonical → s.slots = 0 →
    s.loaded = false → s.inbox = .loadRom image :: rest →
    (∀ data, image = .bytes data → data.length ≤ 3584 → ∃ t, step s = .next t ∧
      (∀ k, k < data.length → t.mem.read (0x200 + k) = data.getD k 0) ∧
      (∀ a, a < 0x200 ∨ 0x200 + data.length ≤ a → t.mem.read a = s.mem.read a) ∧
      t.romLen = data.length ∧ t.loaded = true ∧ t.inbox = rest ∧
      t.outbox = s.outbox ++ [.romLoaded] ∧ FrameBut [.memory, .program, .host] s t) ∧
    ((image = .unreadable ∨ ∃ data, image = .bytes data ∧ 3584 < data.length) →
      step s = .next { s with inbox := rest, outbox := s.outbox ++ [.loadError] })

/-- R240: the setters set their register and change nothing else, in every run state, between
ticks. A new palette recolours every pixel at once. (Two equal colours are refused, which
OnlyHostPreconditionsHaveNoMove states: log 26.) -/
def Obligations.SettersSetTheirRegisterOnly : Prop :=
  ∀ (s : State) (rest : List HostOp), s.slots = 0 →
    (∀ n, s.inbox = .setIpt n :: rest → step s = .next { s with inbox := rest, ipt := n }) ∧
    (∀ b, s.inbox = .setPause b :: rest → step s = .next { s with inbox := rest, pause := b }) ∧
    (∀ on off, s.inbox = .setPalette on off :: rest → on ≠ off →
      ∃ t, step s = .next t ∧ t = { s with inbox := rest, colorOn := on, colorOff := off } ∧
        ∀ px py, t.pixelColor px py = if s.fb.pixel px py = true then on else off)

/-- R241, R30: a read-out has no effect but its answer, which holds the pixel (x, y) at index
`64 * y + x` in the on or the off colour, the timers, memory, the fault record, `LOADED` and
`ROMLEN`. (The layout of the buffer is the spec's decision D22, log 36; that the answer is appended to
a list is the model's choice, log 4.) -/
def Obligations.ReadOutDeliversThePixels : Prop :=
  ∀ (s : State) (rest : List HostOp), s.slots = 0 → s.inbox = .readOut :: rest →
    ∃ r : ReadOut, step s = .next { s with inbox := rest, outbox := s.outbox ++ [.readOut r] } ∧
      (∀ (x : Fin 64) (y : Fin 32) (h : 64 * y.val + x.val < 2048),
        r.pixels[64 * y.val + x.val] =
          if s.fb.pixel x y = true then s.colorOn else s.colorOff) ∧
      r.dt = s.dt ∧ r.st = s.st ∧ r.mem = s.mem ∧ r.loaded = s.loaded ∧ r.romLen = s.romLen ∧
      r.faultValid = s.faultValid ∧ r.faultCode = s.faultCode ∧ r.faultAddr = s.faultAddr ∧
      r.faultWord = s.faultWord
end

