-- ==== Sys2Proof/Laws/State.lean ====
section
/-! SUPPORT. One lemma per field per named update of the state, so that no proof unfolds a record
update. -/

namespace Sys2Proof.Machine

section Memory
variable (m : Memory) (a : Nat) (v : Byte)
@[simp] theorem Memory.write_font : (m.write a v).font = m.font := rfl
@[simp] theorem Memory.write_cells :
    (m.write a v).cells = Memory.writeCells m.font m.cells a v := rfl
@[simp] theorem Memory.cleared_font : m.cleared.font = m.font := rfl
@[simp] theorem Memory.cleared_cells : m.cleared.cells = [] := rfl
@[simp] theorem Memory.read_cleared : m.cleared.read a = Memory.blank m.font a := rfl
@[simp] theorem Memory.writeBytes_font (bs : List Byte) : (m.writeBytes a bs).font = m.font := by
  induction bs generalizing m a with
  | nil => rfl
  | cons b bs ih => exact ih (m.write a b) (a + 1)
end Memory

section setV
variable (s : State)
@[simp] theorem State.setV_v (x : Reg) (b : Byte) : (s.setV x b).v = s.v.set x b := rfl
@[simp] theorem State.setV_i (x : Reg) (b : Byte) : (s.setV x b).i = s.i := rfl
@[simp] theorem State.setV_pc (x : Reg) (b : Byte) : (s.setV x b).pc = s.pc := rfl
@[simp] theorem State.setV_sp (x : Reg) (b : Byte) : (s.setV x b).sp = s.sp := rfl
@[simp] theorem State.setV_stack (x : Reg) (b : Byte) : (s.setV x b).stack = s.stack := rfl
@[simp] theorem State.setV_dt (x : Reg) (b : Byte) : (s.setV x b).dt = s.dt := rfl
@[simp] theorem State.setV_st (x : Reg) (b : Byte) : (s.setV x b).st = s.st := rfl
@[simp] theorem State.setV_mem (x : Reg) (b : Byte) : (s.setV x b).mem = s.mem := rfl
@[simp] theorem State.setV_fb (x : Reg) (b : Byte) : (s.setV x b).fb = s.fb := rfl
@[simp] theorem State.setV_key (x : Reg) (b : Byte) : (s.setV x b).key = s.key := rfl
@[simp] theorem State.setV_keyPrev (x : Reg) (b : Byte) : (s.setV x b).keyPrev = s.keyPrev := rfl
@[simp] theorem State.setV_loaded (x : Reg) (b : Byte) : (s.setV x b).loaded = s.loaded := rfl
@[simp] theorem State.setV_romLen (x : Reg) (b : Byte) : (s.setV x b).romLen = s.romLen := rfl
@[simp] theorem State.setV_pause (x : Reg) (b : Byte) : (s.setV x b).pause = s.pause := rfl
@[simp] theorem State.setV_ipt (x : Reg) (b : Byte) : (s.setV x b).ipt = s.ipt := rfl
@[simp] theorem State.setV_colorOn (x : Reg) (b : Byte) : (s.setV x b).colorOn = s.colorOn := rfl
@[simp] theorem State.setV_colorOff (x : Reg) (b : Byte) : (s.setV x b).colorOff = s.colorOff := rfl
@[simp] theorem State.setV_faultValid (x : Reg) (b : Byte) : (s.setV x b).faultValid = s.faultValid := rfl
@[simp] theorem State.setV_faultCode (x : Reg) (b : Byte) : (s.setV x b).faultCode = s.faultCode := rfl
@[simp] theorem State.setV_faultAddr (x : Reg) (b : Byte) : (s.setV x b).faultAddr = s.faultAddr := rfl
@[simp] theorem State.setV_faultWord (x : Reg) (b : Byte) : (s.setV x b).faultWord = s.faultWord := rfl
@[simp] theorem State.setV_slots (x : Reg) (b : Byte) : (s.setV x b).slots = s.slots := rfl
@[simp] theorem State.setV_draws (x : Reg) (b : Byte) : (s.setV x b).draws = s.draws := rfl
@[simp] theorem State.setV_inbox (x : Reg) (b : Byte) : (s.setV x b).inbox = s.inbox := rfl
@[simp] theorem State.setV_outbox (x : Reg) (b : Byte) : (s.setV x b).outbox = s.outbox := rfl
end setV

section setMem
variable (s : State)
@[simp] theorem State.setMem_v (a : Nat) (b : Byte) : (s.setMem a b).v = s.v := rfl
@[simp] theorem State.setMem_i (a : Nat) (b : Byte) : (s.setMem a b).i = s.i := rfl
@[simp] theorem State.setMem_pc (a : Nat) (b : Byte) : (s.setMem a b).pc = s.pc := rfl
@[simp] theorem State.setMem_sp (a : Nat) (b : Byte) : (s.setMem a b).sp = s.sp := rfl
@[simp] theorem State.setMem_stack (a : Nat) (b : Byte) : (s.setMem a b).stack = s.stack := rfl
@[simp] theorem State.setMem_dt (a : Nat) (b : Byte) : (s.setMem a b).dt = s.dt := rfl
@[simp] theorem State.setMem_st (a : Nat) (b : Byte) : (s.setMem a b).st = s.st := rfl
@[simp] theorem State.setMem_mem (a : Nat) (b : Byte) : (s.setMem a b).mem = s.mem.write a b := rfl
@[simp] theorem State.setMem_fb (a : Nat) (b : Byte) : (s.setMem a b).fb = s.fb := rfl
@[simp] theorem State.setMem_key (a : Nat) (b : Byte) : (s.setMem a b).key = s.key := rfl
@[simp] theorem State.setMem_keyPrev (a : Nat) (b : Byte) : (s.setMem a b).keyPrev = s.keyPrev := rfl
@[simp] theorem State.setMem_loaded (a : Nat) (b : Byte) : (s.setMem a b).loaded = s.loaded := rfl
@[simp] theorem State.setMem_romLen (a : Nat) (b : Byte) : (s.setMem a b).romLen = s.romLen := rfl
@[simp] theorem State.setMem_pause (a : Nat) (b : Byte) : (s.setMem a b).pause = s.pause := rfl
@[simp] theorem State.setMem_ipt (a : Nat) (b : Byte) : (s.setMem a b).ipt = s.ipt := rfl
@[simp] theorem State.setMem_colorOn (a : Nat) (b : Byte) : (s.setMem a b).colorOn = s.colorOn := rfl
@[simp] theorem State.setMem_colorOff (a : Nat) (b : Byte) : (s.setMem a b).colorOff = s.colorOff := rfl
@[simp] theorem State.setMem_faultValid (a : Nat) (b : Byte) : (s.setMem a b).faultValid = s.faultValid := rfl
@[simp] theorem State.setMem_faultCode (a : Nat) (b : Byte) : (s.setMem a b).faultCode = s.faultCode := rfl
@[simp] theorem State.setMem_faultAddr (a : Nat) (b : Byte) : (s.setMem a b).faultAddr = s.faultAddr := rfl
@[simp] theorem State.setMem_faultWord (a : Nat) (b : Byte) : (s.setMem a b).faultWord = s.faultWord := rfl
@[simp] theorem State.setMem_slots (a : Nat) (b : Byte) : (s.setMem a b).slots = s.slots := rfl
@[simp] theorem State.setMem_draws (a : Nat) (b : Byte) : (s.setMem a b).draws = s.draws := rfl
@[simp] theorem State.setMem_inbox (a : Nat) (b : Byte) : (s.setMem a b).inbox = s.inbox := rfl
@[simp] theorem State.setMem_outbox (a : Nat) (b : Byte) : (s.setMem a b).outbox = s.outbox := rfl
end setMem

section raise
variable (s : State)
@[simp] theorem State.raise_v (c : FaultCode) (a w : Word) : (s.raise c a w).v = s.v := rfl
@[simp] theorem State.raise_i (c : FaultCode) (a w : Word) : (s.raise c a w).i = s.i := rfl
@[simp] theorem State.raise_pc (c : FaultCode) (a w : Word) : (s.raise c a w).pc = s.pc := rfl
@[simp] theorem State.raise_sp (c : FaultCode) (a w : Word) : (s.raise c a w).sp = s.sp := rfl
@[simp] theorem State.raise_stack (c : FaultCode) (a w : Word) : (s.raise c a w).stack = s.stack := rfl
@[simp] theorem State.raise_dt (c : FaultCode) (a w : Word) : (s.raise c a w).dt = s.dt := rfl
@[simp] theorem State.raise_st (c : FaultCode) (a w : Word) : (s.raise c a w).st = s.st := rfl
@[simp] theorem State.raise_mem (c : FaultCode) (a w : Word) : (s.raise c a w).mem = s.mem := rfl
@[simp] theorem State.raise_fb (c : FaultCode) (a w : Word) : (s.raise c a w).fb = s.fb := rfl
@[simp] theorem State.raise_key (c : FaultCode) (a w : Word) : (s.raise c a w).key = s.key := rfl
@[simp] theorem State.raise_keyPrev (c : FaultCode) (a w : Word) : (s.raise c a w).keyPrev = s.keyPrev := rfl
@[simp] theorem State.raise_loaded (c : FaultCode) (a w : Word) : (s.raise c a w).loaded = s.loaded := rfl
@[simp] theorem State.raise_romLen (c : FaultCode) (a w : Word) : (s.raise c a w).romLen = s.romLen := rfl
@[simp] theorem State.raise_pause (c : FaultCode) (a w : Word) : (s.raise c a w).pause = s.pause := rfl
@[simp] theorem State.raise_ipt (c : FaultCode) (a w : Word) : (s.raise c a w).ipt = s.ipt := rfl
@[simp] theorem State.raise_colorOn (c : FaultCode) (a w : Word) : (s.raise c a w).colorOn = s.colorOn := rfl
@[simp] theorem State.raise_colorOff (c : FaultCode) (a w : Word) : (s.raise c a w).colorOff = s.colorOff := rfl
@[simp] theorem State.raise_faultValid (c : FaultCode) (a w : Word) : (s.raise c a w).faultValid = true := rfl
@[simp] theorem State.raise_faultCode (c : FaultCode) (a w : Word) : (s.raise c a w).faultCode = c := rfl
@[simp] theorem State.raise_faultAddr (c : FaultCode) (a w : Word) : (s.raise c a w).faultAddr = a := rfl
@[simp] theorem State.raise_faultWord (c : FaultCode) (a w : Word) : (s.raise c a w).faultWord = w := rfl
@[simp] theorem State.raise_slots (c : FaultCode) (a w : Word) : (s.raise c a w).slots = s.slots := rfl
@[simp] theorem State.raise_draws (c : FaultCode) (a w : Word) : (s.raise c a w).draws = s.draws := rfl
@[simp] theorem State.raise_inbox (c : FaultCode) (a w : Word) : (s.raise c a w).inbox = s.inbox := rfl
@[simp] theorem State.raise_outbox (c : FaultCode) (a w : Word) : (s.raise c a w).outbox = s.outbox := rfl
end raise

section raiseIn
variable (s : State)
@[simp] theorem State.raiseIn_v (n : Instr) (c : FaultCode) : (s.raiseIn n c).v = s.v := rfl
@[simp] theorem State.raiseIn_i (n : Instr) (c : FaultCode) : (s.raiseIn n c).i = s.i := rfl
@[simp] theorem State.raiseIn_pc (n : Instr) (c : FaultCode) : (s.raiseIn n c).pc = s.pc := rfl
@[simp] theorem State.raiseIn_sp (n : Instr) (c : FaultCode) : (s.raiseIn n c).sp = s.sp := rfl
@[simp] theorem State.raiseIn_stack (n : Instr) (c : FaultCode) : (s.raiseIn n c).stack = s.stack := rfl
@[simp] theorem State.raiseIn_dt (n : Instr) (c : FaultCode) : (s.raiseIn n c).dt = s.dt := rfl
@[simp] theorem State.raiseIn_st (n : Instr) (c : FaultCode) : (s.raiseIn n c).st = s.st := rfl
@[simp] theorem State.raiseIn_mem (n : Instr) (c : FaultCode) : (s.raiseIn n c).mem = s.mem := rfl
@[simp] theorem State.raiseIn_fb (n : Instr) (c : FaultCode) : (s.raiseIn n c).fb = s.fb := rfl
@[simp] theorem State.raiseIn_key (n : Instr) (c : FaultCode) : (s.raiseIn n c).key = s.key := rfl
@[simp] theorem State.raiseIn_keyPrev (n : Instr) (c : FaultCode) : (s.raiseIn n c).keyPrev = s.keyPrev := rfl
@[simp] theorem State.raiseIn_loaded (n : Instr) (c : FaultCode) : (s.raiseIn n c).loaded = s.loaded := rfl
@[simp] theorem State.raiseIn_romLen (n : Instr) (c : FaultCode) : (s.raiseIn n c).romLen = s.romLen := rfl
@[simp] theorem State.raiseIn_pause (n : Instr) (c : FaultCode) : (s.raiseIn n c).pause = s.pause := rfl
@[simp] theorem State.raiseIn_ipt (n : Instr) (c : FaultCode) : (s.raiseIn n c).ipt = s.ipt := rfl
@[simp] theorem State.raiseIn_colorOn (n : Instr) (c : FaultCode) : (s.raiseIn n c).colorOn = s.colorOn := rfl
@[simp] theorem State.raiseIn_colorOff (n : Instr) (c : FaultCode) : (s.raiseIn n c).colorOff = s.colorOff := rfl
@[simp] theorem State.raiseIn_faultValid (n : Instr) (c : FaultCode) : (s.raiseIn n c).faultValid = true := rfl
@[simp] theorem State.raiseIn_faultCode (n : Instr) (c : FaultCode) : (s.raiseIn n c).faultCode = c := rfl
@[simp] theorem State.raiseIn_faultAddr (n : Instr) (c : FaultCode) : (s.raiseIn n c).faultAddr = s.pc - 2 := rfl
@[simp] theorem State.raiseIn_faultWord (n : Instr) (c : FaultCode) : (s.raiseIn n c).faultWord = encode n := rfl
@[simp] theorem State.raiseIn_slots (n : Instr) (c : FaultCode) : (s.raiseIn n c).slots = s.slots := rfl
@[simp] theorem State.raiseIn_draws (n : Instr) (c : FaultCode) : (s.raiseIn n c).draws = s.draws := rfl
@[simp] theorem State.raiseIn_inbox (n : Instr) (c : FaultCode) : (s.raiseIn n c).inbox = s.inbox := rfl
@[simp] theorem State.raiseIn_outbox (n : Instr) (c : FaultCode) : (s.raiseIn n c).outbox = s.outbox := rfl
end raiseIn

section clearFaultRecord
variable (s : State)
@[simp] theorem State.clearFaultRecord_v : (s.clearFaultRecord).v = s.v := rfl
@[simp] theorem State.clearFaultRecord_i : (s.clearFaultRecord).i = s.i := rfl
@[simp] theorem State.clearFaultRecord_pc : (s.clearFaultRecord).pc = s.pc := rfl
@[simp] theorem State.clearFaultRecord_sp : (s.clearFaultRecord).sp = s.sp := rfl
@[simp] theorem State.clearFaultRecord_stack : (s.clearFaultRecord).stack = s.stack := rfl
@[simp] theorem State.clearFaultRecord_dt : (s.clearFaultRecord).dt = s.dt := rfl
@[simp] theorem State.clearFaultRecord_st : (s.clearFaultRecord).st = s.st := rfl
@[simp] theorem State.clearFaultRecord_mem : (s.clearFaultRecord).mem = s.mem := rfl
@[simp] theorem State.clearFaultRecord_fb : (s.clearFaultRecord).fb = s.fb := rfl
@[simp] theorem State.clearFaultRecord_key : (s.clearFaultRecord).key = s.key := rfl
@[simp] theorem State.clearFaultRecord_keyPrev : (s.clearFaultRecord).keyPrev = s.keyPrev := rfl
@[simp] theorem State.clearFaultRecord_loaded : (s.clearFaultRecord).loaded = s.loaded := rfl
@[simp] theorem State.clearFaultRecord_romLen : (s.clearFaultRecord).romLen = s.romLen := rfl
@[simp] theorem State.clearFaultRecord_pause : (s.clearFaultRecord).pause = s.pause := rfl
@[simp] theorem State.clearFaultRecord_ipt : (s.clearFaultRecord).ipt = s.ipt := rfl
@[simp] theorem State.clearFaultRecord_colorOn : (s.clearFaultRecord).colorOn = s.colorOn := rfl
@[simp] theorem State.clearFaultRecord_colorOff : (s.clearFaultRecord).colorOff = s.colorOff := rfl
@[simp] theorem State.clearFaultRecord_faultValid : (s.clearFaultRecord).faultValid = false := rfl
@[simp] theorem State.clearFaultRecord_faultCode : (s.clearFaultRecord).faultCode = .none := rfl
@[simp] theorem State.clearFaultRecord_faultAddr : (s.clearFaultRecord).faultAddr = 0 := rfl
@[simp] theorem State.clearFaultRecord_faultWord : (s.clearFaultRecord).faultWord = 0 := rfl
@[simp] theorem State.clearFaultRecord_slots : (s.clearFaultRecord).slots = s.slots := rfl
@[simp] theorem State.clearFaultRecord_draws : (s.clearFaultRecord).draws = s.draws := rfl
@[simp] theorem State.clearFaultRecord_inbox : (s.clearFaultRecord).inbox = s.inbox := rfl
@[simp] theorem State.clearFaultRecord_outbox : (s.clearFaultRecord).outbox = s.outbox := rfl
end clearFaultRecord

section skipIf
variable (s : State)
@[simp] theorem State.skipIf_v (c : Bool) : (s.skipIf c).v = s.v := by cases c <;> rfl
@[simp] theorem State.skipIf_i (c : Bool) : (s.skipIf c).i = s.i := by cases c <;> rfl
@[simp] theorem State.skipIf_pc (c : Bool) : (s.skipIf c).pc = if c then s.pc + 2 else s.pc := by cases c <;> rfl
@[simp] theorem State.skipIf_sp (c : Bool) : (s.skipIf c).sp = s.sp := by cases c <;> rfl
@[simp] theorem State.skipIf_stack (c : Bool) : (s.skipIf c).stack = s.stack := by cases c <;> rfl
@[simp] theorem State.skipIf_dt (c : Bool) : (s.skipIf c).dt = s.dt := by cases c <;> rfl
@[simp] theorem State.skipIf_st (c : Bool) : (s.skipIf c).st = s.st := by cases c <;> rfl
@[simp] theorem State.skipIf_mem (c : Bool) : (s.skipIf c).mem = s.mem := by cases c <;> rfl
@[simp] theorem State.skipIf_fb (c : Bool) : (s.skipIf c).fb = s.fb := by cases c <;> rfl
@[simp] theorem State.skipIf_key (c : Bool) : (s.skipIf c).key = s.key := by cases c <;> rfl
@[simp] theorem State.skipIf_keyPrev (c : Bool) : (s.skipIf c).keyPrev = s.keyPrev := by cases c <;> rfl
@[simp] theorem State.skipIf_loaded (c : Bool) : (s.skipIf c).loaded = s.loaded := by cases c <;> rfl
@[simp] theorem State.skipIf_romLen (c : Bool) : (s.skipIf c).romLen = s.romLen := by cases c <;> rfl
@[simp] theorem State.skipIf_pause (c : Bool) : (s.skipIf c).pause = s.pause := by cases c <;> rfl
@[simp] theorem State.skipIf_ipt (c : Bool) : (s.skipIf c).ipt = s.ipt := by cases c <;> rfl
@[simp] theorem State.skipIf_colorOn (c : Bool) : (s.skipIf c).colorOn = s.colorOn := by cases c <;> rfl
@[simp] theorem State.skipIf_colorOff (c : Bool) : (s.skipIf c).colorOff = s.colorOff := by cases c <;> rfl
@[simp] theorem State.skipIf_faultValid (c : Bool) : (s.skipIf c).faultValid = s.faultValid := by cases c <;> rfl
@[simp] theorem State.skipIf_faultCode (c : Bool) : (s.skipIf c).faultCode = s.faultCode := by cases c <;> rfl
@[simp] theorem State.skipIf_faultAddr (c : Bool) : (s.skipIf c).faultAddr = s.faultAddr := by cases c <;> rfl
@[simp] theorem State.skipIf_faultWord (c : Bool) : (s.skipIf c).faultWord = s.faultWord := by cases c <;> rfl
@[simp] theorem State.skipIf_slots (c : Bool) : (s.skipIf c).slots = s.slots := by cases c <;> rfl
@[simp] theorem State.skipIf_draws (c : Bool) : (s.skipIf c).draws = s.draws := by cases c <;> rfl
@[simp] theorem State.skipIf_inbox (c : Bool) : (s.skipIf c).inbox = s.inbox := by cases c <;> rfl
@[simp] theorem State.skipIf_outbox (c : Bool) : (s.skipIf c).outbox = s.outbox := by cases c <;> rfl
end skipIf

section decTimers
variable (s : State)
@[simp] theorem State.decTimers_v : (s.decTimers).v = s.v := rfl
@[simp] theorem State.decTimers_i : (s.decTimers).i = s.i := rfl
@[simp] theorem State.decTimers_pc : (s.decTimers).pc = s.pc := rfl
@[simp] theorem State.decTimers_sp : (s.decTimers).sp = s.sp := rfl
@[simp] theorem State.decTimers_stack : (s.decTimers).stack = s.stack := rfl
@[simp] theorem State.decTimers_dt : (s.decTimers).dt = timerDown s.dt := rfl
@[simp] theorem State.decTimers_st : (s.decTimers).st = timerDown s.st := rfl
@[simp] theorem State.decTimers_mem : (s.decTimers).mem = s.mem := rfl
@[simp] theorem State.decTimers_fb : (s.decTimers).fb = s.fb := rfl
@[simp] theorem State.decTimers_key : (s.decTimers).key = s.key := rfl
@[simp] theorem State.decTimers_keyPrev : (s.decTimers).keyPrev = s.keyPrev := rfl
@[simp] theorem State.decTimers_loaded : (s.decTimers).loaded = s.loaded := rfl
@[simp] theorem State.decTimers_romLen : (s.decTimers).romLen = s.romLen := rfl
@[simp] theorem State.decTimers_pause : (s.decTimers).pause = s.pause := rfl
@[simp] theorem State.decTimers_ipt : (s.decTimers).ipt = s.ipt := rfl
@[simp] theorem State.decTimers_colorOn : (s.decTimers).colorOn = s.colorOn := rfl
@[simp] theorem State.decTimers_colorOff : (s.decTimers).colorOff = s.colorOff := rfl
@[simp] theorem State.decTimers_faultValid : (s.decTimers).faultValid = s.faultValid := rfl
@[simp] theorem State.decTimers_faultCode : (s.decTimers).faultCode = s.faultCode := rfl
@[simp] theorem State.decTimers_faultAddr : (s.decTimers).faultAddr = s.faultAddr := rfl
@[simp] theorem State.decTimers_faultWord : (s.decTimers).faultWord = s.faultWord := rfl
@[simp] theorem State.decTimers_slots : (s.decTimers).slots = s.slots := rfl
@[simp] theorem State.decTimers_draws : (s.decTimers).draws = s.draws := rfl
@[simp] theorem State.decTimers_inbox : (s.decTimers).inbox = s.inbox := rfl
@[simp] theorem State.decTimers_outbox : (s.decTimers).outbox = s.outbox := rfl
end decTimers

section resync
variable (s : State)
@[simp] theorem State.resync_v (k : BitVec 16) : (s.resync k).v = s.v := rfl
@[simp] theorem State.resync_i (k : BitVec 16) : (s.resync k).i = s.i := rfl
@[simp] theorem State.resync_pc (k : BitVec 16) : (s.resync k).pc = s.pc := rfl
@[simp] theorem State.resync_sp (k : BitVec 16) : (s.resync k).sp = s.sp := rfl
@[simp] theorem State.resync_stack (k : BitVec 16) : (s.resync k).stack = s.stack := rfl
@[simp] theorem State.resync_dt (k : BitVec 16) : (s.resync k).dt = s.dt := rfl
@[simp] theorem State.resync_st (k : BitVec 16) : (s.resync k).st = s.st := rfl
@[simp] theorem State.resync_mem (k : BitVec 16) : (s.resync k).mem = s.mem := rfl
@[simp] theorem State.resync_fb (k : BitVec 16) : (s.resync k).fb = s.fb := rfl
@[simp] theorem State.resync_key (k : BitVec 16) : (s.resync k).key = k := rfl
@[simp] theorem State.resync_keyPrev (k : BitVec 16) : (s.resync k).keyPrev = s.key := rfl
@[simp] theorem State.resync_loaded (k : BitVec 16) : (s.resync k).loaded = s.loaded := rfl
@[simp] theorem State.resync_romLen (k : BitVec 16) : (s.resync k).romLen = s.romLen := rfl
@[simp] theorem State.resync_pause (k : BitVec 16) : (s.resync k).pause = s.pause := rfl
@[simp] theorem State.resync_ipt (k : BitVec 16) : (s.resync k).ipt = s.ipt := rfl
@[simp] theorem State.resync_colorOn (k : BitVec 16) : (s.resync k).colorOn = s.colorOn := rfl
@[simp] theorem State.resync_colorOff (k : BitVec 16) : (s.resync k).colorOff = s.colorOff := rfl
@[simp] theorem State.resync_faultValid (k : BitVec 16) : (s.resync k).faultValid = s.faultValid := rfl
@[simp] theorem State.resync_faultCode (k : BitVec 16) : (s.resync k).faultCode = s.faultCode := rfl
@[simp] theorem State.resync_faultAddr (k : BitVec 16) : (s.resync k).faultAddr = s.faultAddr := rfl
@[simp] theorem State.resync_faultWord (k : BitVec 16) : (s.resync k).faultWord = s.faultWord := rfl
@[simp] theorem State.resync_slots (k : BitVec 16) : (s.resync k).slots = s.slots := rfl
@[simp] theorem State.resync_draws (k : BitVec 16) : (s.resync k).draws = s.draws := rfl
@[simp] theorem State.resync_inbox (k : BitVec 16) : (s.resync k).inbox = s.inbox := rfl
@[simp] theorem State.resync_outbox (k : BitVec 16) : (s.resync k).outbox = s.outbox := rfl
end resync

section reply
variable (s : State)
@[simp] theorem State.reply_v (r : Reply) : (s.reply r).v = s.v := rfl
@[simp] theorem State.reply_i (r : Reply) : (s.reply r).i = s.i := rfl
@[simp] theorem State.reply_pc (r : Reply) : (s.reply r).pc = s.pc := rfl
@[simp] theorem State.reply_sp (r : Reply) : (s.reply r).sp = s.sp := rfl
@[simp] theorem State.reply_stack (r : Reply) : (s.reply r).stack = s.stack := rfl
@[simp] theorem State.reply_dt (r : Reply) : (s.reply r).dt = s.dt := rfl
@[simp] theorem State.reply_st (r : Reply) : (s.reply r).st = s.st := rfl
@[simp] theorem State.reply_mem (r : Reply) : (s.reply r).mem = s.mem := rfl
@[simp] theorem State.reply_fb (r : Reply) : (s.reply r).fb = s.fb := rfl
@[simp] theorem State.reply_key (r : Reply) : (s.reply r).key = s.key := rfl
@[simp] theorem State.reply_keyPrev (r : Reply) : (s.reply r).keyPrev = s.keyPrev := rfl
@[simp] theorem State.reply_loaded (r : Reply) : (s.reply r).loaded = s.loaded := rfl
@[simp] theorem State.reply_romLen (r : Reply) : (s.reply r).romLen = s.romLen := rfl
@[simp] theorem State.reply_pause (r : Reply) : (s.reply r).pause = s.pause := rfl
@[simp] theorem State.reply_ipt (r : Reply) : (s.reply r).ipt = s.ipt := rfl
@[simp] theorem State.reply_colorOn (r : Reply) : (s.reply r).colorOn = s.colorOn := rfl
@[simp] theorem State.reply_colorOff (r : Reply) : (s.reply r).colorOff = s.colorOff := rfl
@[simp] theorem State.reply_faultValid (r : Reply) : (s.reply r).faultValid = s.faultValid := rfl
@[simp] theorem State.reply_faultCode (r : Reply) : (s.reply r).faultCode = s.faultCode := rfl
@[simp] theorem State.reply_faultAddr (r : Reply) : (s.reply r).faultAddr = s.faultAddr := rfl
@[simp] theorem State.reply_faultWord (r : Reply) : (s.reply r).faultWord = s.faultWord := rfl
@[simp] theorem State.reply_slots (r : Reply) : (s.reply r).slots = s.slots := rfl
@[simp] theorem State.reply_draws (r : Reply) : (s.reply r).draws = s.draws := rfl
@[simp] theorem State.reply_inbox (r : Reply) : (s.reply r).inbox = s.inbox := rfl
@[simp] theorem State.reply_outbox (r : Reply) : (s.reply r).outbox = s.outbox ++ [r] := rfl
end reply

section softReset
variable (s : State)
@[simp] theorem State.softReset_v : s.softReset.v = Vector.replicate 16 0 := rfl
@[simp] theorem State.softReset_i : s.softReset.i = 0 := rfl
@[simp] theorem State.softReset_pc : s.softReset.pc = 0x200 := rfl
@[simp] theorem State.softReset_sp : s.softReset.sp = 0 := rfl
@[simp] theorem State.softReset_stack : s.softReset.stack = Vector.replicate 16 0 := rfl
@[simp] theorem State.softReset_dt : s.softReset.dt = 0 := rfl
@[simp] theorem State.softReset_st : s.softReset.st = 0 := rfl
@[simp] theorem State.softReset_mem : s.softReset.mem = s.mem := rfl
@[simp] theorem State.softReset_fb : s.softReset.fb = Display.clear := rfl
@[simp] theorem State.softReset_key : s.softReset.key = 0 := rfl
@[simp] theorem State.softReset_keyPrev : s.softReset.keyPrev = 0 := rfl
@[simp] theorem State.softReset_loaded : s.softReset.loaded = s.loaded := rfl
@[simp] theorem State.softReset_romLen : s.softReset.romLen = s.romLen := rfl
@[simp] theorem State.softReset_pause : s.softReset.pause = s.pause := rfl
@[simp] theorem State.softReset_ipt : s.softReset.ipt = s.ipt := rfl
@[simp] theorem State.softReset_colorOn : s.softReset.colorOn = s.colorOn := rfl
@[simp] theorem State.softReset_colorOff : s.softReset.colorOff = s.colorOff := rfl
@[simp] theorem State.softReset_faultValid : s.softReset.faultValid = false := rfl
@[simp] theorem State.softReset_faultCode : s.softReset.faultCode = .none := rfl
@[simp] theorem State.softReset_faultAddr : s.softReset.faultAddr = 0 := rfl
@[simp] theorem State.softReset_faultWord : s.softReset.faultWord = 0 := rfl
@[simp] theorem State.softReset_slots : s.softReset.slots = s.slots := rfl
@[simp] theorem State.softReset_draws : s.softReset.draws = s.draws := rfl
@[simp] theorem State.softReset_inbox : s.softReset.inbox = s.inbox := rfl
@[simp] theorem State.softReset_outbox : s.softReset.outbox = s.outbox := rfl
end softReset

section hardReset
variable (s : State)
@[simp] theorem State.hardReset_v : s.hardReset.v = Vector.replicate 16 0 := rfl
@[simp] theorem State.hardReset_i : s.hardReset.i = 0 := rfl
@[simp] theorem State.hardReset_pc : s.hardReset.pc = 0x200 := rfl
@[simp] theorem State.hardReset_sp : s.hardReset.sp = 0 := rfl
@[simp] theorem State.hardReset_stack : s.hardReset.stack = Vector.replicate 16 0 := rfl
@[simp] theorem State.hardReset_dt : s.hardReset.dt = 0 := rfl
@[simp] theorem State.hardReset_st : s.hardReset.st = 0 := rfl
@[simp] theorem State.hardReset_mem : s.hardReset.mem = s.mem.cleared := rfl
@[simp] theorem State.hardReset_fb : s.hardReset.fb = Display.clear := rfl
@[simp] theorem State.hardReset_key : s.hardReset.key = 0 := rfl
@[simp] theorem State.hardReset_keyPrev : s.hardReset.keyPrev = 0 := rfl
@[simp] theorem State.hardReset_loaded : s.hardReset.loaded = false := rfl
@[simp] theorem State.hardReset_romLen : s.hardReset.romLen = 0 := rfl
@[simp] theorem State.hardReset_pause : s.hardReset.pause = s.pause := rfl
@[simp] theorem State.hardReset_ipt : s.hardReset.ipt = s.ipt := rfl
@[simp] theorem State.hardReset_colorOn : s.hardReset.colorOn = s.colorOn := rfl
@[simp] theorem State.hardReset_colorOff : s.hardReset.colorOff = s.colorOff := rfl
@[simp] theorem State.hardReset_faultValid : s.hardReset.faultValid = false := rfl
@[simp] theorem State.hardReset_faultCode : s.hardReset.faultCode = .none := rfl
@[simp] theorem State.hardReset_faultAddr : s.hardReset.faultAddr = 0 := rfl
@[simp] theorem State.hardReset_faultWord : s.hardReset.faultWord = 0 := rfl
@[simp] theorem State.hardReset_slots : s.hardReset.slots = s.slots := rfl
@[simp] theorem State.hardReset_draws : s.hardReset.draws = s.draws := rfl
@[simp] theorem State.hardReset_inbox : s.hardReset.inbox = s.inbox := rfl
@[simp] theorem State.hardReset_outbox : s.hardReset.outbox = s.outbox := rfl
end hardReset

section poweredOn
variable (s : State)
@[simp] theorem State.poweredOn_v : s.poweredOn.v = Vector.replicate 16 0 := rfl
@[simp] theorem State.poweredOn_i : s.poweredOn.i = 0 := rfl
@[simp] theorem State.poweredOn_pc : s.poweredOn.pc = 0x200 := rfl
@[simp] theorem State.poweredOn_sp : s.poweredOn.sp = 0 := rfl
@[simp] theorem State.poweredOn_stack : s.poweredOn.stack = Vector.replicate 16 0 := rfl
@[simp] theorem State.poweredOn_dt : s.poweredOn.dt = 0 := rfl
@[simp] theorem State.poweredOn_st : s.poweredOn.st = 0 := rfl
@[simp] theorem State.poweredOn_mem : s.poweredOn.mem = s.mem.cleared := rfl
@[simp] theorem State.poweredOn_fb : s.poweredOn.fb = Display.clear := rfl
@[simp] theorem State.poweredOn_key : s.poweredOn.key = 0 := rfl
@[simp] theorem State.poweredOn_keyPrev : s.poweredOn.keyPrev = 0 := rfl
@[simp] theorem State.poweredOn_loaded : s.poweredOn.loaded = false := rfl
@[simp] theorem State.poweredOn_romLen : s.poweredOn.romLen = 0 := rfl
@[simp] theorem State.poweredOn_pause : s.poweredOn.pause = false := rfl
@[simp] theorem State.poweredOn_ipt : s.poweredOn.ipt = Config.defaultIpt := rfl
@[simp] theorem State.poweredOn_colorOn : s.poweredOn.colorOn = Config.colorOnDefault := rfl
@[simp] theorem State.poweredOn_colorOff : s.poweredOn.colorOff = Config.colorOffDefault := rfl
@[simp] theorem State.poweredOn_faultValid : s.poweredOn.faultValid = false := rfl
@[simp] theorem State.poweredOn_faultCode : s.poweredOn.faultCode = .none := rfl
@[simp] theorem State.poweredOn_faultAddr : s.poweredOn.faultAddr = 0 := rfl
@[simp] theorem State.poweredOn_faultWord : s.poweredOn.faultWord = 0 := rfl
@[simp] theorem State.poweredOn_slots : s.poweredOn.slots = 0 := rfl
@[simp] theorem State.poweredOn_draws : s.poweredOn.draws = s.draws := rfl
@[simp] theorem State.poweredOn_inbox : s.poweredOn.inbox = s.inbox := rfl
@[simp] theorem State.poweredOn_outbox : s.poweredOn.outbox = s.outbox := rfl
end poweredOn

end Sys2Proof.Machine
end

