-- ==== Sys2Proof/Laws/Display.lean ====
section
/-! SUPPORT. What the compositor's operations do (43_display.md R190 to R194). -/

namespace Sys2Proof.Machine

/-- Toggling one pixel: that pixel is inverted if it is in the grid, no other pixel changes. -/
theorem Display.pixel_toggle (acc : Display × Bool) (x y a b : Nat) :
    (Display.toggle acc x y).1.pixel a b =
      ((acc.1.pixel a b) ^^ decide (a = x ∧ b = y ∧ x < 64 ∧ y < 32)) := by
  unfold Display.toggle
  by_cases h : x < 64 ∧ y < 32
  · rw [dif_pos h]
    unfold Display.pixel
    by_cases hab : a < 64 ∧ b < 32
    · rw [dif_pos hab, dif_pos hab]
      by_cases hb : b = y
      · subst hb
        by_cases ha : a = x
        · subst ha; simp [h]
        · have : x ≠ a := fun e => ha e.symm
          simp [ha, this]
      · have : y ≠ b := fun e => hb e.symm
        simp [hb, this]
    · rw [dif_neg hab, dif_neg hab]
      have : ¬ (a = x ∧ b = y ∧ x < 64 ∧ y < 32) := fun ⟨e1, e2, h1, h2⟩ => hab ⟨e1 ▸ h1, e2 ▸ h2⟩
      simp [this]
  · rw [dif_neg h]
    have : ¬ (a = x ∧ b = y ∧ x < 64 ∧ y < 32) := fun ⟨_, _, h1, h2⟩ => h ⟨h1, h2⟩
    simp [this]

/-- A toggle is a collision exactly when the pixel is in the grid and was on. -/
theorem Display.collision_toggle (acc : Display × Bool) (x y : Nat) :
    (Display.toggle acc x y).2 = (acc.2 || acc.1.pixel x y) := by
  unfold Display.toggle Display.pixel
  split <;> simp

/-- No pixel is on after a clear (R193). -/
@[simp] theorem Display.pixel_clear (x y : Nat) : Display.clear.pixel x y = false := by
  unfold Display.pixel Display.clear
  split <;> simp

/-- A pixel outside the grid is never on. -/
theorem Display.pixel_outside (fb : Display) {x y : Nat} (h : ¬ (x < 64 ∧ y < 32)) :
    fb.pixel x y = false := by simp [Display.pixel, h]

/-- Displays with the same pixels are the same display. -/
theorem Display.ext {f g : Display} (h : ∀ x y, f.pixel x y = g.pixel x y) : f = g := by
  apply Vector.ext
  intro y hy
  apply Vector.ext
  intro x hx
  have := h x y
  simpa [Display.pixel, hx, hy] using this

/-- Whether the first `n` columns of one sprite row put a 1 bit on the pixel (R190, R192). -/
def rowBit (ox y : Nat) (b : Byte) (n px py : Nat) : Bool :=
  decide (px < 64 ∧ py < 32 ∧ py = y ∧ ox ≤ px ∧ px < ox + n) && b.getLsbD (7 - (px - ox))

/-- Whether a sprite's rows put a 1 bit on the pixel. -/
def spriteBit (ox y : Nat) (bs : List Byte) (px py : Nat) : Bool :=
  decide (px < 64 ∧ py < 32 ∧ y ≤ py ∧ py < y + bs.length ∧ ox ≤ px ∧ px < ox + 8) &&
    (bs.getD (py - y) 0).getLsbD (7 - (px - ox))

/-- The columns of a sprite row, one after another: the pixels under a 1 bit are toggled, and there
is a collision exactly when one of them was on. -/
theorem Display.drawRow_columns (acc : Display × Bool) (ox y : Nat) (b : Byte) (n : Nat) :
    (∀ px py,
      ((List.range n).foldl
        (fun a c => if b.getLsbD (7 - c) then Display.toggle a (ox + c) y else a) acc).1.pixel px py =
        (acc.1.pixel px py ^^ rowBit ox y b n px py)) ∧
    (((List.range n).foldl
        (fun a c => if b.getLsbD (7 - c) then Display.toggle a (ox + c) y else a) acc).2 = true ↔
      acc.2 = true ∨ ∃ px py, rowBit ox y b n px py = true ∧ acc.1.pixel px py = true) := by
  induction n with
  | zero =>
    have h0 : ∀ px py, rowBit ox y b 0 px py = false := by
      intro px py
      have : ¬ (ox ≤ px ∧ px < ox) := by omega
      simp [rowBit, this]
    simp [h0]
  | succ n ih =>
    obtain ⟨hp, hc⟩ := ih
    simp only [List.range_succ, List.foldl_append, List.foldl_cons, List.foldl_nil]
    by_cases hb : b.getLsbD (7 - n) = true
    · simp only [hb, if_true]
      have hbit : ∀ px py, rowBit ox y b (n + 1) px py =
          (rowBit ox y b n px py ^^ decide (px = ox + n ∧ py = y ∧ ox + n < 64 ∧ y < 32)) := by
        intro px py
        by_cases hpx : px = ox + n
        · subst hpx
          simp only [rowBit, Nat.add_sub_cancel_left, hb]
          by_cases hy : py = y <;> simp [hy]
        · have e : (px < ox + (n + 1)) ↔ (px < ox + n) := by omega
          simp [rowBit, hpx, e]
      have hfree : rowBit ox y b n (ox + n) y = false := by simp [rowBit]
      refine ⟨fun px py => ?_, ?_⟩
      · rw [Display.pixel_toggle, hp, hbit, Bool.xor_assoc]
      · rw [Display.collision_toggle, Bool.or_eq_true, hc, hp, hfree, Bool.xor_false]
        constructor
        · rintro ((h | ⟨px, py, h1, h2⟩) | h)
          · exact .inl h
          · refine .inr ⟨px, py, ?_, h2⟩
            have hn : ¬ px = ox + n := by
              rintro rfl
              simp [rowBit] at h1
            rw [hbit, h1]
            simp [hn]
          · refine .inr ⟨ox + n, y, ?_, h⟩
            have hin : ox + n < 64 ∧ y < 32 := by
              by_contra hno
              rw [Display.pixel_outside _ hno] at h
              exact Bool.noConfusion h
            rw [hbit, hfree]
            simp [hin]
        · rintro (h | ⟨px, py, h1, h2⟩)
          · exact .inl (.inl h)
          · by_cases hn : px = ox + n ∧ py = y
            · rw [hn.1, hn.2] at h2
              exact .inr h2
            · refine .inl (.inr ⟨px, py, ?_, h2⟩)
              rw [hbit] at h1
              have : ¬ (px = ox + n ∧ py = y ∧ ox + n < 64 ∧ y < 32) := fun h => hn ⟨h.1, h.2.1⟩
              simpa [this] using h1
    · have hb' : b.getLsbD (7 - n) = false := by simpa using hb
      have hbit : ∀ px py, rowBit ox y b (n + 1) px py = rowBit ox y b n px py := by
        intro px py
        by_cases hpx : px = ox + n
        · subst hpx
          simp [rowBit, hb']
        · have e : (px < ox + (n + 1)) ↔ (px < ox + n) := by omega
          simp [rowBit, e]
      simp only [hb', Bool.false_eq_true, if_false, hbit]
      exact ⟨hp, hc⟩

/-- A whole sprite: exactly the pixels in the grid under a 1 bit are toggled, and there is a
collision exactly when one of them was on (R191, R192, R194). -/
theorem Display.drawRows_spec (ox y : Nat) (bs : List Byte) (acc : Display × Bool) :
    (∀ px py, (Display.drawRows ox y bs acc).1.pixel px py =
      (acc.1.pixel px py ^^ spriteBit ox y bs px py)) ∧
    ((Display.drawRows ox y bs acc).2 = true ↔
      acc.2 = true ∨ ∃ px py, spriteBit ox y bs px py = true ∧ acc.1.pixel px py = true) := by
  induction bs generalizing y acc with
  | nil =>
    have h0 : ∀ px py, spriteBit ox y [] px py = false := by
      intro px py
      simp [spriteBit]
    simp [Display.drawRows, h0]
  | cons b bs ih =>
    obtain ⟨hp, hc⟩ := ih (y + 1) (Display.drawRow acc ox y b)
    obtain ⟨rp, rc⟩ := Display.drawRow_columns acc ox y b 8
    have hbit : ∀ px py, spriteBit ox y (b :: bs) px py =
        (rowBit ox y b 8 px py ^^ spriteBit ox (y + 1) bs px py) := by
      intro px py
      by_cases hy : py = y
      · subst hy
        have h1 : ¬ (py + 1 ≤ py) := by omega
        simp [spriteBit, rowBit, h1]
      · by_cases hle : y ≤ py
        · obtain ⟨k, rfl⟩ : ∃ k, py = y + 1 + k := ⟨py - (y + 1), by omega⟩
          have e1 : y + 1 + k - y = k + 1 := by omega
          have e2 : y + 1 + k - (y + 1) = k := by omega
          have e3 : (y + 1 + k < y + (bs.length + 1)) ↔ (y + 1 + k < y + 1 + bs.length) := by omega
          simp [spriteBit, rowBit, hy, e1, e2, e3, hle]
        · have h2 : ¬ y + 1 ≤ py := by omega
          simp [spriteBit, rowBit, hy, hle, h2]
    have hdisj : ∀ px py, rowBit ox y b 8 px py = true → spriteBit ox (y + 1) bs px py = false := by
      intro px py h
      have hy : py = y := by simp [rowBit] at h; exact h.1.2.2.1
      have : ¬ y + 1 ≤ py := by omega
      simp [spriteBit, this]
    refine ⟨fun px py => ?_, ?_⟩
    · show (Display.drawRows ox (y + 1) bs (Display.drawRow acc ox y b)).1.pixel px py = _
      rw [hp]
      unfold Display.drawRow
      rw [rp, hbit, Bool.xor_assoc]
    · show (Display.drawRows ox (y + 1) bs (Display.drawRow acc ox y b)).2 = true ↔ _
      rw [hc]
      unfold Display.drawRow
      rw [rc]
      constructor
      · rintro ((h | ⟨px, py, h1, h2⟩) | ⟨px, py, h1, h2⟩)
        · exact .inl h
        · exact .inr ⟨px, py, by rw [hbit, h1, hdisj px py h1]; rfl, h2⟩
        · have hr : rowBit ox y b 8 px py = false := by
            by_contra hne
            have := hdisj px py (by simpa using hne)
            simp [this] at h1
          rw [rp, hr, Bool.xor_false] at h2
          exact .inr ⟨px, py, by rw [hbit, h1, hr]; rfl, h2⟩
      · rintro (h | ⟨px, py, h1, h2⟩)
        · exact .inl (.inl h)
        · by_cases hr : rowBit ox y b 8 px py = true
          · exact .inl (.inr ⟨px, py, hr, h2⟩)
          · have hr' : rowBit ox y b 8 px py = false := by simpa using hr
            rw [hbit, hr', Bool.false_xor] at h1
            refine .inr ⟨px, py, h1, ?_⟩
            rw [rp, hr', Bool.xor_false]
            exact h2

end Sys2Proof.Machine
end

