-- ==== Sys2Proof/Laws/Encoding.lean ====
section
/-! SUPPORT. The fields of a packed word are the fields it was packed from (30_encoding.md R91,
R92). -/

namespace Sys2Proof

theorem packNNN_toNat {op : Nat} (hop : op < 16) (nnn : Addr) :
    (packNNN op nnn).toNat = op * 4096 + nnn.toNat := by
  have := nnn.isLt
  simp only [packNNN, BitVec.toNat_ofNat]
  omega

theorem packXNN_toNat {op x nn : Nat} (hop : op < 16) (hx : x < 16) (hnn : nn < 256) :
    (packXNN op x nn).toNat = op * 4096 + x * 256 + nn := by
  simp only [packXNN, BitVec.toNat_ofNat]
  omega

theorem packXYN_toNat {op x y n : Nat} (hop : op < 16) (hx : x < 16) (hy : y < 16) (hn : n < 16) :
    (packXYN op x y n).toNat = op * 4096 + x * 256 + y * 16 + n := by
  simp only [packXYN, BitVec.toNat_ofNat]
  omega

theorem bits_15_12 (w : Word) : bits w 15 12 = w.toNat / 4096 % 16 := rfl
theorem bits_11_8 (w : Word) : bits w 11 8 = w.toNat / 256 % 16 := rfl
theorem bits_7_4 (w : Word) : bits w 7 4 = w.toNat / 16 % 16 := rfl
theorem bits_3_0 (w : Word) : bits w 3 0 = w.toNat % 16 := by simp [bits]
theorem bits_7_0 (w : Word) : bits w 7 0 = w.toNat % 256 := by simp [bits]
theorem bits_11_0 (w : Word) : bits w 11 0 = w.toNat % 4096 := by simp [bits]
theorem bits_15_8 (w : Word) : bits w 15 8 = w.toNat / 256 % 256 := rfl

section NNN
variable {op : Nat} (hop : op < 16) (nnn : Addr)
include hop

theorem fieldOp_packNNN : fieldOp (packNNN op nnn) = op := by
  have := nnn.isLt
  rw [fieldOp, bits_15_12, packNNN_toNat hop]
  omega

theorem fieldNNN_packNNN : fieldNNN (packNNN op nnn) = nnn := by
  have := nnn.isLt
  apply BitVec.eq_of_toNat_eq
  rw [fieldNNN, bits_11_0, packNNN_toNat hop, BitVec.toNat_ofNat]
  omega

end NNN

section XNN
variable {op x nn : Nat} (hop : op < 16) (hx : x < 16) (hnn : nn < 256)
include hop hx hnn

theorem fieldOp_packXNN : fieldOp (packXNN op x nn) = op := by
  rw [fieldOp, bits_15_12, packXNN_toNat hop hx hnn]
  omega

theorem fieldX_packXNN : fieldX (packXNN op x nn) = ⟨x, hx⟩ := by
  ext
  simp only [fieldX, bits_11_8, packXNN_toNat hop hx hnn, Fin.val_ofNat]
  omega

theorem rawX_packXNN : rawX (packXNN op x nn) = BitVec.ofNat 4 x := by
  apply BitVec.eq_of_toNat_eq
  simp only [rawX, bits_11_8, packXNN_toNat hop hx hnn, BitVec.toNat_ofNat]
  omega

theorem bits_packXNN : bits (packXNN op x nn) 7 0 = nn := by
  rw [bits_7_0, packXNN_toNat hop hx hnn]
  omega

theorem fieldNN_packXNN : fieldNN (packXNN op x nn) = BitVec.ofNat 8 nn := by
  rw [fieldNN, bits_packXNN hop hx hnn]

end XNN

section XYN
variable {op x y n : Nat} (hop : op < 16) (hx : x < 16) (hy : y < 16) (hn : n < 16)
include hop hx hy hn

theorem fieldOp_packXYN : fieldOp (packXYN op x y n) = op := by
  rw [fieldOp, bits_15_12, packXYN_toNat hop hx hy hn]
  omega

theorem fieldX_packXYN : fieldX (packXYN op x y n) = ⟨x, hx⟩ := by
  ext
  simp only [fieldX, bits_11_8, packXYN_toNat hop hx hy hn, Fin.val_ofNat]
  omega

theorem fieldY_packXYN : fieldY (packXYN op x y n) = ⟨y, hy⟩ := by
  ext
  simp only [fieldY, bits_7_4, packXYN_toNat hop hx hy hn, Fin.val_ofNat]
  omega

theorem bits_packXYN : bits (packXYN op x y n) 3 0 = n := by
  rw [bits_3_0, packXYN_toNat hop hx hy hn]
  omega

theorem rawN_packXYN : rawN (packXYN op x y n) = BitVec.ofNat 4 n := by
  rw [rawN, bits_packXYN hop hx hy hn]

end XYN

/-- The bytes of a word, the high one first, give the word back (20_memory.md R66). -/
theorem wordOfBytes_bytes (w : Word) : wordOfBytes (highByte w) (lowByte w) = w := by
  have := w.isLt
  apply BitVec.eq_of_toNat_eq
  simp only [wordOfBytes, highByte, lowByte, bits_15_8, bits_7_0, BitVec.toNat_ofNat]
  omega

/-- The two bytes of a big-endian word, as a number (R66). -/
theorem wordOfBytes_toNat (hi lo : Byte) : (wordOfBytes hi lo).toNat = hi.toNat * 256 + lo.toNat := by
  have := hi.isLt
  have := lo.isLt
  simp only [wordOfBytes, BitVec.toNat_ofNat]
  omega

/-! ## The masks of the opcode table (30_encoding.md R96) -/

theorem and_F000_toNat (w : Word) : (w &&& 0xF000#16).toNat = w.toNat / 4096 * 4096 := by
  have h : w &&& 0xF000#16 = (w >>> 12) <<< 12 := by
    ext k hk
    interval_cases k <;> simp
  have := w.isLt
  rw [h, BitVec.toNat_shiftLeft, BitVec.toNat_ushiftRight, Nat.shiftRight_eq_div_pow,
    Nat.shiftLeft_eq]
  omega

theorem and_00FF_toNat (w : Word) : (w &&& 0x00FF#16).toNat = w.toNat % 256 := by
  rw [BitVec.toNat_and]
  exact Nat.and_two_pow_sub_one_eq_mod w.toNat 8

theorem and_000F_toNat (w : Word) : (w &&& 0x000F#16).toNat = w.toNat % 16 := by
  rw [BitVec.toNat_and]
  exact Nat.and_two_pow_sub_one_eq_mod w.toNat 4

/-- A mask of two parts with no common bit selects the sum of what the parts select. -/
theorem and_or_eq_add (w l m : Word) (h : l &&& m = 0) :
    w &&& (l ||| m) = (w &&& l) + (w &&& m) := by
  have e : w &&& l &&& (w &&& m) = 0#16 := by
    have : w &&& l &&& (w &&& m) = w &&& (l &&& m) := by
      ext k hk
      simp
      grind
    rw [this, h]
    simp
  rw [BitVec.add_eq_or_of_and_eq_zero _ _ e]
  ext k hk
  simp
  grind

theorem and_F0FF_toNat (w : Word) :
    (w &&& 0xF0FF#16).toNat = w.toNat / 4096 * 4096 + w.toNat % 256 := by
  have := w.isLt
  have h := and_or_eq_add w 0xF000#16 0x00FF#16 (by decide)
  rw [show 0xF0FF#16 = 0xF000#16 ||| 0x00FF#16 from by decide, h, BitVec.toNat_add,
    and_F000_toNat, and_00FF_toNat]
  omega

theorem and_F00F_toNat (w : Word) :
    (w &&& 0xF00F#16).toNat = w.toNat / 4096 * 4096 + w.toNat % 16 := by
  have := w.isLt
  have h := and_or_eq_add w 0xF000#16 0x000F#16 (by decide)
  rw [show 0xF00F#16 = 0xF000#16 ||| 0x000F#16 from by decide, h, BitVec.toNat_add,
    and_F000_toNat, and_000F_toNat]
  omega

theorem packNNN_and_F000 {op : Nat} (hop : op < 16) (nnn : Addr) :
    packNNN op nnn &&& 0xF000#16 = BitVec.ofNat 16 (op * 4096) := by
  have := nnn.isLt
  apply BitVec.eq_of_toNat_eq
  rw [and_F000_toNat, packNNN_toNat hop, BitVec.toNat_ofNat]
  omega

theorem packXNN_and_F000 {op x nn : Nat} (hop : op < 16) (hx : x < 16) (hnn : nn < 256) :
    packXNN op x nn &&& 0xF000#16 = BitVec.ofNat 16 (op * 4096) := by
  apply BitVec.eq_of_toNat_eq
  rw [and_F000_toNat, packXNN_toNat hop hx hnn, BitVec.toNat_ofNat]
  omega

theorem packXNN_and_F0FF {op x nn : Nat} (hop : op < 16) (hx : x < 16) (hnn : nn < 256) :
    packXNN op x nn &&& 0xF0FF#16 = BitVec.ofNat 16 (op * 4096 + nn) := by
  apply BitVec.eq_of_toNat_eq
  rw [and_F0FF_toNat, packXNN_toNat hop hx hnn, BitVec.toNat_ofNat]
  omega

theorem packXYN_and_F000 {op x y n : Nat} (hop : op < 16) (hx : x < 16) (hy : y < 16)
    (hn : n < 16) : packXYN op x y n &&& 0xF000#16 = BitVec.ofNat 16 (op * 4096) := by
  apply BitVec.eq_of_toNat_eq
  rw [and_F000_toNat, packXYN_toNat hop hx hy hn, BitVec.toNat_ofNat]
  omega

theorem packXYN_and_F00F {op x y n : Nat} (hop : op < 16) (hx : x < 16) (hy : y < 16)
    (hn : n < 16) : packXYN op x y n &&& 0xF00F#16 = BitVec.ofNat 16 (op * 4096 + n) := by
  apply BitVec.eq_of_toNat_eq
  rw [and_F00F_toNat, packXYN_toNat hop hx hy hn, BitVec.toNat_ofNat]
  omega

end Sys2Proof
end

