-- ==== Sys2Proof/Laws/Registers.lean ====
section
/-! SUPPORT. What the register operations do (10_state.md R20; 41_alu.md R141). -/

namespace Sys2Proof.Machine

/-- A register write: that register and no other. -/
theorem State.getV_setV (s : State) (x r : Reg) (b : Byte) :
    (s.setV x b).getV r = if r = x then b else s.getV r := by
  unfold State.getV State.setV
  by_cases h : r = x
  · subst h; simp
  · have : x.val ≠ r.val := fun e => h (Fin.ext e.symm)
    simp [h, this]

@[simp] theorem State.getV_setV_same (s : State) (x : Reg) (b : Byte) :
    (s.setV x b).getV x = b := by simp [State.getV_setV]

theorem State.getV_setV_other (s : State) {x r : Reg} (b : Byte) (h : r ≠ x) :
    (s.setV x b).getV r = s.getV r := by simp [State.getV_setV, h]

/-- Flag, then result: the result register holds the result also when it is VF; VF otherwise holds
the flag; no other register changes. -/
theorem State.getV_setFlagThenResult (s : State) (x r : Reg) (f b : Byte) :
    (s.setFlagThenResult x f b).getV r = if r = x then b else if r = vf then f else s.getV r := by
  simp [State.setFlagThenResult, State.getV_setV]

/-- The register load, register by register: each from its address reduced mod 4096, the others as
before (R177). -/
theorem State.getV_load_registers (s : State) (n : Nat) (hn : n ≤ 16) (r : Reg) :
    ((List.range n).foldl
      (fun t k => t.setV (Fin.ofNat 16 k) (s.mem.read (wrapAddr s k))) s).getV r =
        if r.val < n then s.mem.read (wrapAddr s r) else s.getV r := by
  induction n with
  | zero => simp
  | succ n ih =>
    simp only [List.range_succ, List.foldl_append, List.foldl_cons, List.foldl_nil,
      State.getV_setV]
    rw [ih (by omega)]
    by_cases e : r.val = n
    · have : r = Fin.ofNat 16 n := by ext; simp; omega
      rw [if_pos this, if_pos (by omega), e]
    · have : r ≠ Fin.ofNat 16 n := by intro h; apply e; rw [h]; simp; omega
      rw [if_neg this]
      by_cases h : r.val < n
      · rw [if_pos h, if_pos (by omega)]
      · rw [if_neg h, if_neg (by omega)]

theorem State.getV_load (s : State) (x r : Reg) :
    (s.load x).getV r = if r ≤ x then s.mem.read (wrapAddr s r) else s.getV r := by
  unfold State.load
  rw [State.getV_load_registers s (x + 1) (by omega)]
  have : r.val < x.val + 1 ↔ r ≤ x := by simp only [Fin.le_def]; omega
  simp [this]

/-- Two states with the same register vector read the same. -/
theorem State.getV_congr {s t : State} (h : t.v = s.v) (r : Reg) : t.getV r = s.getV r := by
  simp [State.getV, h]

theorem flagByte_true : flagByte true = 1 := rfl

theorem flagByte_false : flagByte false = 0 := rfl

/-- A flag value is 0x00 or 0x01 (R21). -/
theorem flagByte_toNat (b : Bool) : (flagByte b).toNat = if b then 1 else 0 := by cases b <;> rfl

/-- The default colours differ, whatever they are (R8, R30; log 9). -/
theorem colorOnDefault_ne : Config.colorOnDefault ≠ Config.colorOffDefault := by
  unfold Config.colorOnDefault
  split
  · intro h
    have := congrArg (fun b : Color => b.getLsbD 0) h
    simp at this
  · assumption

end Sys2Proof.Machine
end

