-- ==== Sys2Proof/Laws/Frames.lean ====
section
/-! SUPPORT. What each shared update of the state leaves alone, in the terms of Safety.lean, cited
instead of unfolding the update. -/

namespace Sys2Proof.Machine

/-- Every part stays in a state that does not change. -/
theorem samePart_refl (s : State) (p : StatePart) : p.same s s := by
  cases p <;> simp [StatePart.same]

/-- A register write changes the registers alone. -/
theorem State.frame_setV (s : State) (x : Reg) (b : Byte) : FrameBut [.regs] s (s.setV x b) := by
  intro p hp; cases p <;> simp [StatePart.same] at hp ⊢

theorem State.regsBut_setV (s : State) (x : Reg) (b : Byte) : RegsBut [x] s (s.setV x b) := by
  intro r hr; exact State.getV_setV_other s b (by simpa using hr)

/-- Flag and result change the registers alone, and of them only the destination and VF. -/
theorem State.frame_setFlagThenResult (s : State) (x : Reg) (f b : Byte) :
    FrameBut [.regs] s (s.setFlagThenResult x f b) := by
  intro p hp; cases p <;> simp [StatePart.same, State.setFlagThenResult] at hp ⊢

theorem State.regsBut_setFlagThenResult (s : State) (x : Reg) (f b : Byte) :
    RegsBut [x, vf] s (s.setFlagThenResult x f b) := by
  intro r hr
  simp at hr
  simp [State.getV_setFlagThenResult, hr]

/-- A skip changes PC alone. -/
theorem State.frame_skipIf (s : State) (c : Bool) : FrameBut [.pc] s (s.skipIf c) := by
  intro p hp; cases p <;> simp [StatePart.same, State.getV] at hp ⊢

/-- Fault entry changes the record alone, and latches the code with address and word (R268). -/
theorem State.frame_raise (s : State) (c : FaultCode) (a w : Word) :
    FrameBut [.fault] s (s.raise c a w) := by
  intro p hp; cases p <;> simp [StatePart.same, State.getV] at hp ⊢

theorem State.latched_raise (s : State) (c : FaultCode) (a w : Word) :
    Latched (s.raise c a w) c a w := by simp [Latched]

/-- A return from a fault changes the record alone (R242). -/
theorem State.frame_clearFaultRecord (s : State) : FrameBut [.fault] s s.clearFaultRecord := by
  intro p hp; cases p <;> simp [StatePart.same, State.getV] at hp ⊢

/-- The resync changes the keys alone (R233). -/
theorem State.frame_resync (s : State) (keys : BitVec 16) : FrameBut [.keys] s (s.resync keys) := by
  intro p hp; cases p <;> simp [StatePart.same, State.getV] at hp ⊢

/-- The timer decrement changes the timers alone (R235). -/
theorem State.frame_decTimers (s : State) : FrameBut [.delay, .sound] s s.decTimers := by
  intro p hp; cases p <;> simp [StatePart.same, State.getV] at hp ⊢

/-- A timer counts down by one and never below zero (R26, R235). -/
theorem timerDown_toNat (b : Byte) : (timerDown b).toNat = b.toNat - 1 := by
  revert b; decide

/-- The low nibble of a byte as a number (R210, R174). -/
theorem lowNibble_toNat (b : Byte) : (b &&& 0x0F).toNat = b.toNat % 16 := by
  have h : b.toNat &&& 15 = b.toNat % 16 := Nat.and_two_pow_sub_one_eq_mod _ 4
  simp [h]

theorem keyIndex_eq (b : Byte) : keyIndex b = b.toNat % 16 := lowNibble_toNat b

/-- The register dump changes memory alone (R176). -/
theorem State.frame_dump (s : State) (x : Reg) : FrameBut [.memory] s (s.dump x) := by
  intro p hp
  unfold State.dump
  suffices H : ∀ (l : List Nat) (t : State), p.same s t →
      p.same s (l.foldl (fun t k => t.setMem (wrapAddr s k) (s.getV (Fin.ofNat 16 k))) t) from
    H _ _ (samePart_refl s p)
  intro l
  induction l with
  | nil => exact fun _ ht => ht
  | cons k l ih =>
    refine fun t ht => ih _ ?_
    cases p <;> simp [StatePart.same, State.getV] at hp ht ⊢ <;> exact ht

/-- The register load changes the registers alone (R177). -/
theorem State.frame_load (s : State) (x : Reg) : FrameBut [.regs] s (s.load x) := by
  intro p hp
  unfold State.load
  suffices H : ∀ (l : List Nat) (t : State), p.same s t →
      p.same s (l.foldl (fun t k => t.setV (Fin.ofNat 16 k) (s.mem.read (wrapAddr s k))) t) from
    H _ _ (samePart_refl s p)
  intro l
  induction l with
  | nil => exact fun _ ht => ht
  | cons k l ih =>
    refine fun t ht => ih _ ?_
    cases p <;> simp [StatePart.same] at hp ht ⊢ <;> exact ht

end Sys2Proof.Machine
end

