-- ==== Sys2Proof/Laws/Memory.lean ====
section
/-! SUPPORT. What the memory operations do (20_memory.md R65, R66, R72), and that each keeps the
canonical form. -/

namespace Sys2Proof.Machine

/-! ## Lists of cells -/

section Cells
variable {font : Font}

/-- An address before every listed one is not listed. -/
theorem Memory.readCells_of_lt {l : List Host.Cell} {a : Nat} (h : ∀ c ∈ l, a < c.1) :
    Memory.readCells font l a = Memory.blank font a := by
  induction l with
  | nil => rfl
  | cons c l ih =>
    have hc := h c (List.mem_cons_self ..)
    simp [Memory.readCells, Nat.ne_of_lt hc, ih fun d hd => h d (List.mem_cons_of_mem _ hd)]

/-- Every listed address after the head of a canonical list is above the head's. -/
theorem Memory.wfCells_tail {c : Host.Cell} {l : List Host.Cell}
    (h : Memory.wfCells font (c :: l)) :
    Memory.wfCells font l ∧ (∀ d ∈ l, c.1 < d.1) ∧ c.1 < 4096 ∧ c.2 ≠ Memory.blank font c.1 :=
  ⟨⟨(List.pairwise_cons.1 h.1).2, fun d hd => h.2 d (List.mem_cons_of_mem _ hd)⟩,
    (List.pairwise_cons.1 h.1).1, h.2 c (List.mem_cons_self ..)⟩

theorem Memory.readCells_consCell {l : List Host.Cell} {a : Nat} {v : Byte}
    (h : ∀ c ∈ l, a < c.1) (b : Nat) :
    Memory.readCells font (Memory.consCell font a v l) b =
      if b = a then v else Memory.readCells font l b := by
  unfold Memory.consCell
  by_cases hv : v = Memory.blank font a
  · by_cases hb : b = a
    · simp [hv, hb, Memory.readCells_of_lt h]
    · simp [hv, hb]
  · simp [hv, Memory.readCells]

/-- Read after write, on a canonical list. -/
theorem Memory.readCells_writeCells {l : List Host.Cell} (h : Memory.wfCells font l) (a : Nat)
    (v : Byte) (b : Nat) :
    Memory.readCells font (Memory.writeCells font l a v) b =
      if b = a then v else Memory.readCells font l b := by
  induction l with
  | nil => exact Memory.readCells_consCell (by simp) b
  | cons c l ih =>
    obtain ⟨c, u⟩ := c
    obtain ⟨hm, hlt, -, -⟩ := Memory.wfCells_tail h
    simp only [Memory.writeCells]
    split
    case isTrue hac =>
      refine Memory.readCells_consCell ?_ b
      intro d hd
      rcases List.mem_cons.1 hd with rfl | hd
      · exact hac
      · exact Nat.lt_trans hac (hlt d hd)
    case isFalse hac =>
      split
      case isTrue heq =>
        subst heq
        rw [Memory.readCells_consCell hlt]
        by_cases hb : b = a <;> simp [hb, Memory.readCells]
      case isFalse hne =>
        simp only [Memory.readCells, ih hm]
        by_cases hb : b = c
        · simp [hb, Ne.symm hne]
        · simp [hb]

theorem Memory.wfCells_consCell {l : List Host.Cell} {a : Nat} {v : Byte}
    (h : Memory.wfCells font l) (ha : a < 4096) (hlt : ∀ c ∈ l, a < c.1) :
    Memory.wfCells font (Memory.consCell font a v l) := by
  unfold Memory.consCell
  split
  · exact h
  · refine ⟨List.pairwise_cons.2 ⟨hlt, h.1⟩, ?_⟩
    intro c hc
    rcases List.mem_cons.1 hc with rfl | hc
    · exact ⟨ha, ‹_›⟩
    · exact h.2 c hc

/-- The addresses a write leaves listed. -/
theorem Memory.mem_writeCells {l : List Host.Cell} {a : Nat} {v : Byte} {c : Host.Cell}
    (h : c ∈ Memory.writeCells font l a v) : c.1 = a ∨ c ∈ l := by
  have hcons : ∀ {k : List Host.Cell}, c ∈ Memory.consCell font a v k → c.1 = a ∨ c ∈ k := by
    intro k hk
    unfold Memory.consCell at hk
    split at hk
    · exact .inr hk
    · rcases List.mem_cons.1 hk with rfl | hk
      · exact .inl rfl
      · exact .inr hk
  induction l with
  | nil => exact hcons h
  | cons d l ih =>
    simp only [Memory.writeCells] at h
    split at h
    · exact hcons h
    · split at h
      · exact (hcons h).imp id (List.mem_cons_of_mem _)
      · rcases List.mem_cons.1 h with rfl | h
        · exact .inr (List.mem_cons_self ..)
        · exact (ih h).imp id (List.mem_cons_of_mem _)

theorem Memory.wfCells_writeCells {l : List Host.Cell} (h : Memory.wfCells font l) {a : Nat}
    (ha : a < 4096) (v : Byte) : Memory.wfCells font (Memory.writeCells font l a v) := by
  induction l with
  | nil => exact Memory.wfCells_consCell h ha (by simp)
  | cons c l ih =>
    obtain ⟨c, u⟩ := c
    obtain ⟨hm, hlt, hc, hu⟩ := Memory.wfCells_tail h
    simp only [Memory.writeCells]
    split
    case isTrue hac =>
      refine Memory.wfCells_consCell h ha ?_
      intro d hd
      rcases List.mem_cons.1 hd with rfl | hd
      · exact hac
      · exact Nat.lt_trans hac (hlt d hd)
    case isFalse hac =>
      split
      case isTrue heq => subst heq; exact Memory.wfCells_consCell hm ha hlt
      case isFalse hne =>
        have hw := ih hm
        refine ⟨List.pairwise_cons.2 ⟨fun d hd => ?_, hw.1⟩, fun d hd => ?_⟩
        · rcases Memory.mem_writeCells hd with hda | hd
          · simp only [hda]; omega
          · exact hlt d hd
        · rcases List.mem_cons.1 hd with rfl | hd
          · exact ⟨hc, hu⟩
          · exact hw.2 d hd

/-- Equal reads, equal lists: the canonical form is one form. -/
theorem Memory.cells_ext {m n : List Host.Cell} (hm : Memory.wfCells font m)
    (hn : Memory.wfCells font n)
    (h : ∀ a, Memory.readCells font m a = Memory.readCells font n a) : m = n := by
  induction m generalizing n with
  | nil =>
    cases n with
    | nil => rfl
    | cons d n =>
      have hd := (Memory.wfCells_tail hn).2.2.2
      have := h d.1
      simp [Memory.readCells] at this
      exact absurd this.symm hd
  | cons c m ih =>
    obtain ⟨hm', hmlt, -, hcb⟩ := Memory.wfCells_tail hm
    cases n with
    | nil =>
      have := h c.1
      simp [Memory.readCells] at this
      exact absurd this hcb
    | cons d n =>
      obtain ⟨hn', hnlt, -, hdb⟩ := Memory.wfCells_tail hn
      have key : ∀ {e f : Host.Cell} {l k : List Host.Cell}, (∀ x ∈ k, f.1 < x.1) →
          e.2 ≠ Memory.blank font e.1 →
          Memory.readCells font (e :: l) e.1 = Memory.readCells font (f :: k) e.1 →
          ¬ e.1 < f.1 := by
        intro e f l k hk he hr hlt
        have : Memory.readCells font (f :: k) e.1 = Memory.blank font e.1 := by
          refine Memory.readCells_of_lt fun x hx => ?_
          rcases List.mem_cons.1 hx with rfl | hx
          · exact hlt
          · exact Nat.lt_trans hlt (hk x hx)
        rw [this] at hr
        exact he (by simpa [Memory.readCells] using hr)
      have h1 : ¬ c.1 < d.1 := key hnlt hcb (h c.1)
      have h2 : ¬ d.1 < c.1 := key hmlt hdb (h d.1).symm
      have hcd : c.1 = d.1 := by omega
      have hval : c.2 = d.2 := by
        have := h c.1
        simpa [Memory.readCells, hcd] using this
      have hce : c = d := Prod.ext hcd hval
      subst hce
      congr 1
      refine ih hm' hn' fun a => ?_
      by_cases ha : a = c.1
      · subst ha
        rw [Memory.readCells_of_lt hmlt, Memory.readCells_of_lt hnlt]
      · have := h a
        simpa [Memory.readCells, ha] using this

end Cells

/-! ## Memory -/

/-- Read after write, on a canonical memory: the byte written, and every other byte as before. -/
theorem Memory.read_write {m : Memory} (h : m.wf) (a : Nat) (v : Byte) (b : Nat) :
    (m.write a v).read b = if b = a then v else m.read b :=
  Memory.readCells_writeCells h a v b

theorem Memory.read_write_same {m : Memory} (h : m.wf) (a : Nat) (v : Byte) :
    (m.write a v).read a = v := by simp [Memory.read_write h]

theorem Memory.read_write_other {m : Memory} (h : m.wf) {a b : Nat} (v : Byte) (hb : b ≠ a) :
    (m.write a v).read b = m.read b := by simp [Memory.read_write h, hb]

/-- A write below 4096 keeps the canonical form. -/
theorem Memory.wf_write {m : Memory} (h : m.wf) {a : Nat} (ha : a < 4096) (v : Byte) :
    (m.write a v).wf := Memory.wfCells_writeCells h ha v

/-- Consecutive writes below 4096 keep the canonical form. -/
theorem Memory.wf_writeBytes {m : Memory} (h : m.wf) {a : Nat} {bs : List Byte}
    (ha : a + bs.length ≤ 4096) : (m.writeBytes a bs).wf := by
  induction bs generalizing m a with
  | nil => exact h
  | cons b bs ih =>
    simp only [List.length_cons] at ha
    exact ih (Memory.wf_write h (by omega) b) (by omega)

/-- Consecutive writes: each byte at its place, every other byte as before. -/
theorem Memory.read_writeBytes {m : Memory} (h : m.wf) {a : Nat} {bs : List Byte}
    (ha : a + bs.length ≤ 4096) (b : Nat) :
    (m.writeBytes a bs).read b =
      if a ≤ b ∧ b < a + bs.length then bs.getD (b - a) 0 else m.read b := by
  induction bs generalizing m a with
  | nil => simp [Memory.writeBytes]
  | cons v bs ih =>
    simp only [List.length_cons] at ha
    simp only [Memory.writeBytes, List.length_cons]
    rw [ih (Memory.wf_write h (by omega) v) (by omega)]
    by_cases h1 : a + 1 ≤ b ∧ b < a + 1 + bs.length
    · rw [if_pos h1, if_pos (by omega)]
      obtain ⟨k, rfl⟩ : ∃ k, b = a + 1 + k := ⟨b - (a + 1), by omega⟩
      have e1 : a + 1 + k - (a + 1) = k := by omega
      have e2 : a + 1 + k - a = k + 1 := by omega
      simp [e1, e2]
    · rw [if_neg h1, Memory.read_write h]
      by_cases hb : b = a
      · subst hb; simp
      · rw [if_neg hb, if_neg (by omega)]

/-- Equal parameters and equal reads, equal memories. -/
theorem Memory.ext {m n : Memory} (hm : m.wf) (hn : n.wf) (hf : m.font = n.font)
    (h : ∀ a, m.read a = n.read a) : m = n := by
  obtain ⟨f, l⟩ := m
  obtain ⟨g, k⟩ := n
  obtain rfl : f = g := hf
  obtain rfl : l = k := Memory.cells_ext hm hn h
  rfl

/-- A memory at its reset content is canonical, for every `FONT`: the memory right after reset
is. -/
theorem Memory.wf_cleared (m : Memory) : m.cleared.wf := ⟨.nil, fun _ hc => nomatch hc⟩

theorem Memory.wf_resetWith (font : Font) : (State.resetWith font).mem.wf :=
  Memory.wf_cleared ⟨font, []⟩

/-- The register dump, register by register: canonical form kept, each register at its address
reduced mod 4096, every other byte as before (R176). -/
theorem State.dump_registers {s : State} (hc : s.mem.wf) (n : Nat) (hn : n ≤ 16) :
    ((List.range n).foldl
      (fun t k => t.setMem (wrapAddr s k) (s.getV (Fin.ofNat 16 k))) s).mem.wf ∧
    (∀ k, k < n → ((List.range n).foldl
      (fun t k => t.setMem (wrapAddr s k) (s.getV (Fin.ofNat 16 k))) s).mem.read (wrapAddr s k) =
        s.getV (Fin.ofNat 16 k)) ∧
    (∀ a, (∀ k, k < n → a ≠ wrapAddr s k) → ((List.range n).foldl
      (fun t k => t.setMem (wrapAddr s k) (s.getV (Fin.ofNat 16 k))) s).mem.read a =
        s.mem.read a) := by
  induction n with
  | zero => exact ⟨hc, by simp, by simp⟩
  | succ n ih =>
    obtain ⟨h1, h2, h3⟩ := ih (by omega)
    simp only [List.range_succ, List.foldl_append, List.foldl_cons, List.foldl_nil,
      State.setMem_mem]
    refine ⟨Memory.wf_write h1 (Nat.mod_lt _ (by decide)) _, ?_, ?_⟩
    · intro k hk
      rw [Memory.read_write h1]
      by_cases e : k = n
      · subst e; simp
      · have : wrapAddr s k ≠ wrapAddr s n := by simp [wrapAddr, effectiveAddr]; omega
        rw [if_neg this]
        exact h2 k (by omega)
    · intro a ha
      rw [Memory.read_write h1, if_neg (ha n (by omega))]
      exact h3 a fun k hk => ha k (by omega)

/-- The register dump keeps the canonical form. -/
theorem State.wf_dump {s : State} (h : s.mem.wf) (x : Reg) : (s.dump x).mem.wf :=
  (State.dump_registers h (x + 1) (by omega)).1

end Sys2Proof.Machine
end

