-- ==== Sys2Proof/Laws/PerInstr.lean ====
section
/-! SUPPORT. Statements about every instruction as syntax, one lemma per constructor. -/

namespace Sys2Proof.Laws

/-- The word of an instruction lies in the row the opcode table gives it (30_encoding.md R96). -/
def TableRow.Statement (i : Instr) : Prop := encode i &&& i.row.mask = i.row.pattern

theorem TableRow.cls (ign : Nibble) : TableRow.Statement (.cls ign) :=
  packXNN_and_F0FF (by decide) ign.isLt (by decide)

theorem TableRow.ret (ign : Nibble) : TableRow.Statement (.ret ign) :=
  packXNN_and_F0FF (by decide) ign.isLt (by decide)

theorem TableRow.jp (nnn : Addr) : TableRow.Statement (.jp nnn) :=
  packNNN_and_F000 (by decide) nnn

theorem TableRow.call (nnn : Addr) : TableRow.Statement (.call nnn) :=
  packNNN_and_F000 (by decide) nnn

theorem TableRow.seImm (x : Reg) (nn : Byte) : TableRow.Statement (.seImm x nn) :=
  packXNN_and_F000 (by decide) x.isLt nn.isLt

theorem TableRow.sneImm (x : Reg) (nn : Byte) : TableRow.Statement (.sneImm x nn) :=
  packXNN_and_F000 (by decide) x.isLt nn.isLt

theorem TableRow.seReg (x y : Reg) (ign : Nibble) : TableRow.Statement (.seReg x y ign) :=
  packXYN_and_F000 (by decide) x.isLt y.isLt ign.isLt

theorem TableRow.ldImm (x : Reg) (nn : Byte) : TableRow.Statement (.ldImm x nn) :=
  packXNN_and_F000 (by decide) x.isLt nn.isLt

theorem TableRow.addImm (x : Reg) (nn : Byte) : TableRow.Statement (.addImm x nn) :=
  packXNN_and_F000 (by decide) x.isLt nn.isLt

theorem TableRow.ldReg (x y : Reg) : TableRow.Statement (.ldReg x y) :=
  packXYN_and_F00F (by decide) x.isLt y.isLt (by decide)

theorem TableRow.or (x y : Reg) : TableRow.Statement (.or x y) :=
  packXYN_and_F00F (by decide) x.isLt y.isLt (by decide)

theorem TableRow.and (x y : Reg) : TableRow.Statement (.and x y) :=
  packXYN_and_F00F (by decide) x.isLt y.isLt (by decide)

theorem TableRow.xor (x y : Reg) : TableRow.Statement (.xor x y) :=
  packXYN_and_F00F (by decide) x.isLt y.isLt (by decide)

theorem TableRow.addReg (x y : Reg) : TableRow.Statement (.addReg x y) :=
  packXYN_and_F00F (by decide) x.isLt y.isLt (by decide)

theorem TableRow.sub (x y : Reg) : TableRow.Statement (.sub x y) :=
  packXYN_and_F00F (by decide) x.isLt y.isLt (by decide)

theorem TableRow.shr (x y : Reg) : TableRow.Statement (.shr x y) :=
  packXYN_and_F00F (by decide) x.isLt y.isLt (by decide)

theorem TableRow.subn (x y : Reg) : TableRow.Statement (.subn x y) :=
  packXYN_and_F00F (by decide) x.isLt y.isLt (by decide)

theorem TableRow.shl (x y : Reg) : TableRow.Statement (.shl x y) :=
  packXYN_and_F00F (by decide) x.isLt y.isLt (by decide)

theorem TableRow.sneReg (x y : Reg) (ign : Nibble) : TableRow.Statement (.sneReg x y ign) :=
  packXYN_and_F000 (by decide) x.isLt y.isLt ign.isLt

theorem TableRow.ldI (nnn : Addr) : TableRow.Statement (.ldI nnn) :=
  packNNN_and_F000 (by decide) nnn

theorem TableRow.jpV0 (nnn : Addr) : TableRow.Statement (.jpV0 nnn) :=
  packNNN_and_F000 (by decide) nnn

theorem TableRow.rnd (x : Reg) (nn : Byte) : TableRow.Statement (.rnd x nn) :=
  packXNN_and_F000 (by decide) x.isLt nn.isLt

theorem TableRow.drw (x y : Reg) (n : Nat) : TableRow.Statement (.drw x y n) :=
  packXYN_and_F000 (by decide) x.isLt y.isLt (Nat.mod_lt _ (by decide))

theorem TableRow.skp (x : Reg) : TableRow.Statement (.skp x) :=
  packXNN_and_F0FF (by decide) x.isLt (by decide)

theorem TableRow.sknp (x : Reg) : TableRow.Statement (.sknp x) :=
  packXNN_and_F0FF (by decide) x.isLt (by decide)

theorem TableRow.ldVxDt (x : Reg) : TableRow.Statement (.ldVxDt x) :=
  packXNN_and_F0FF (by decide) x.isLt (by decide)

theorem TableRow.ldVxK (x : Reg) : TableRow.Statement (.ldVxK x) :=
  packXNN_and_F0FF (by decide) x.isLt (by decide)

theorem TableRow.ldDtVx (x : Reg) : TableRow.Statement (.ldDtVx x) :=
  packXNN_and_F0FF (by decide) x.isLt (by decide)

theorem TableRow.ldStVx (x : Reg) : TableRow.Statement (.ldStVx x) :=
  packXNN_and_F0FF (by decide) x.isLt (by decide)

theorem TableRow.addI (x : Reg) : TableRow.Statement (.addI x) :=
  packXNN_and_F0FF (by decide) x.isLt (by decide)

theorem TableRow.ldF (x : Reg) : TableRow.Statement (.ldF x) :=
  packXNN_and_F0FF (by decide) x.isLt (by decide)

theorem TableRow.ldB (x : Reg) : TableRow.Statement (.ldB x) :=
  packXNN_and_F0FF (by decide) x.isLt (by decide)

theorem TableRow.ldMemVx (x : Reg) : TableRow.Statement (.ldMemVx x) :=
  packXNN_and_F0FF (by decide) x.isLt (by decide)

theorem TableRow.ldVxMem (x : Reg) : TableRow.Statement (.ldVxMem x) :=
  packXNN_and_F0FF (by decide) x.isLt (by decide)

end Sys2Proof.Laws
end

