-- ==== Sys2Proof/Laws/Step.lean ====
section
/-! SUPPORT. What fetch and decode, the end of a slot, the start of a tick and the step can do, said
once each (45_engine_tick.md R232 to R238). -/

namespace Sys2Proof.Machine

/-! ## Fetch and decode -/

/-- The range test of a fetch (20_memory.md R64). -/
theorem outOfRange_fetch (a : Nat) : outOfRange a 2 ↔ 0xFFE < a := by
  simp only [outOfRange]
  omega

theorem State.fetchDecode_range {s : State} (h : 0xFFE < s.pc.toNat) :
    s.fetchDecode = .faulted (s.raise .memRangeFetch s.pc 0) := by
  rw [State.fetchDecode, if_pos ((outOfRange_fetch _).2 h)]

theorem State.fetchDecode_invalid {s : State} {e : DecodeError} (h : s.pc.toNat ≤ 0xFFE)
    (hd : decode (s.mem.fetchWord s.pc.toNat) = .error e) :
    s.fetchDecode = .faulted
      ({ s with pc := s.pc + 2 }.raise .invalidOpcode s.pc (s.mem.fetchWord s.pc.toNat)) := by
  rw [State.fetchDecode, if_neg (by rw [outOfRange_fetch]; omega), hd]

theorem State.fetchDecode_run {s : State} {i : Instr} (h : s.pc.toNat ≤ 0xFFE)
    (hd : decode (s.mem.fetchWord s.pc.toNat) = .ok i) :
    s.fetchDecode = .run i { s with pc := s.pc + 2 } := by
  rw [State.fetchDecode, if_neg (by rw [outOfRange_fetch]; omega), hd]

/-- What a slot does: the fetch faults, the word is `Invalid`, or the decoded instruction runs. -/
theorem slotStep_cases (s : State) :
    (0xFFE < s.pc.toNat ∧ slotStep s = .next (s.raise .memRangeFetch s.pc 0)) ∨
    (s.pc.toNat ≤ 0xFFE ∧ (∃ e, decode (s.mem.fetchWord s.pc.toNat) = .error e) ∧
      slotStep s = .next
        ({ s with pc := s.pc + 2 }.raise .invalidOpcode s.pc (s.mem.fetchWord s.pc.toNat))) ∨
    (s.pc.toNat ≤ 0xFFE ∧ ∃ i, decode (s.mem.fetchWord s.pc.toNat) = .ok i ∧
      slotStep s = exec i { s with pc := s.pc + 2 }) := by
  by_cases h : 0xFFE < s.pc.toNat
  · exact .inl ⟨h, by rw [slotStep, State.fetchDecode_range h]⟩
  · have h : s.pc.toNat ≤ 0xFFE := by omega
    cases hd : decode (s.mem.fetchWord s.pc.toNat) with
    | error e => exact .inr (.inl ⟨h, ⟨e, rfl⟩, by rw [slotStep, State.fetchDecode_invalid h hd]⟩)
    | ok i => exact .inr (.inr ⟨h, i, rfl, by rw [slotStep, State.fetchDecode_run h hd]⟩)

/-! ## The end of a slot -/

theorem State.afterSlot_faulted {s : State} (h : s.faultValid = true) :
    s.afterSlot = { s with slots := 0 } := by
  rw [State.afterSlot, if_pos h]

theorem State.afterSlot_last {s : State} (h : s.faultValid = false) (hs : s.slots ≤ 1) :
    s.afterSlot = { s with slots := 0, dt := timerDown s.dt, st := timerDown s.st } := by
  rw [State.afterSlot, if_neg (by simp [h]), if_pos hs]
  rfl

theorem State.afterSlot_more {s : State} (h : s.faultValid = false) (hs : 1 < s.slots) :
    s.afterSlot = { s with slots := s.slots - 1 } := by
  rw [State.afterSlot, if_neg (by simp [h]), if_neg (by omega)]

/-- What the end of a slot does: a fault ends the tick, the last slot is followed by the timer
decrement, any other leaves one slot fewer. -/
theorem State.afterSlot_cases (s : State) :
    (s.faultValid = true ∧ s.afterSlot = { s with slots := 0 }) ∨
    (s.faultValid = false ∧ s.slots ≤ 1 ∧
      s.afterSlot = { s with slots := 0, dt := timerDown s.dt, st := timerDown s.st }) ∨
    (s.faultValid = false ∧ 1 < s.slots ∧ s.afterSlot = { s with slots := s.slots - 1 }) := by
  rcases Bool.eq_false_or_eq_true s.faultValid with h | h
  · exact .inl ⟨h, State.afterSlot_faulted h⟩
  · by_cases hs : s.slots ≤ 1
    · exact .inr (.inl ⟨h, hs, State.afterSlot_last h hs⟩)
    · exact .inr (.inr ⟨h, by omega, State.afterSlot_more h (by omega)⟩)

/-! ## The start of a tick -/

/-- What the start of a tick does, by the run state (R232, R236 to R238). -/
theorem State.beginTick_cases (s : State) (keys : BitVec 16) :
    ((s.loaded = false ∨ s.faultValid = true) ∧ s.beginTick keys = s) ∨
    (s.loaded = true ∧ s.faultValid = false ∧ s.pause = true ∧ s.beginTick keys = s.resync keys) ∨
    (s.loaded = true ∧ s.faultValid = false ∧ s.pause = false ∧ s.ipt = 0 ∧
      s.beginTick keys = (s.resync keys).decTimers) ∨
    (s.loaded = true ∧ s.faultValid = false ∧ s.pause = false ∧ s.ipt ≠ 0 ∧
      s.beginTick keys = { s.resync keys with slots := s.ipt }) := by
  unfold State.beginTick
  cases hl : s.loaded <;> cases hf : s.faultValid <;> cases hp : s.pause <;>
    by_cases hi : s.ipt = 0 <;> simp [hi]

/-! ## The step -/

theorem step_slot {s : State} (h : s.slots ≠ 0) : step s = endSlot (slotStep s) := by
  rw [step, if_neg h]

theorem step_idle {s : State} (h : s.slots = 0) (hi : s.inbox = []) : step s = .next s := by
  rw [step, if_pos h, State.hostMove, hi]

theorem step_host {s : State} {op : HostOp} {rest : List HostOp} (h : s.slots = 0)
    (hi : s.inbox = op :: rest) : step s = { s with inbox := rest }.hostOp op := by
  rw [step, if_pos h, State.hostMove, hi]

theorem endSlot_next (t : State) : endSlot (.next t) = .next t.afterSlot := rfl

/-- A slot that answers a next state did so by way of one of its own. -/
theorem endSlot_eq_next {o : Host.Outcome State Fault Refusal} {t : State}
    (h : endSlot o = .next t) : ∃ u, o = .next u ∧ t = u.afterSlot := by
  cases o with
  | next u =>
    injection h with h
    exact ⟨u, rfl, h.symm⟩
  | fault f => exact nomatch f
  | refused r => exact nomatch h

/-- What a step does: a slot of the running tick, nothing, or one operation of the host. -/
theorem step_eq_next {s t : State} (h : step s = .next t) :
    (s.slots ≠ 0 ∧ ∃ u, slotStep s = .next u ∧ t = u.afterSlot) ∨
    (s.slots = 0 ∧ s.inbox = [] ∧ t = s) ∨
    (s.slots = 0 ∧ ∃ op rest, s.inbox = op :: rest ∧
      { s with inbox := rest }.hostOp op = .next t) := by
  by_cases hs : s.slots = 0
  · cases hi : s.inbox with
    | nil =>
      rw [step_idle hs hi] at h
      injection h with h
      exact .inr (.inl ⟨hs, rfl, h.symm⟩)
    | cons op rest =>
      rw [step_host hs hi] at h
      exact .inr (.inr ⟨hs, op, rest, rfl, h⟩)
  · rw [step_slot hs] at h
    exact .inl ⟨hs, endSlot_eq_next h⟩

/-! ## The host's operations -/

/-- When a load succeeds, fails, and has no move (R239, R266). -/
theorem State.loadRom_cases (s : State) (image : Image) :
    (s.loaded = true ∧ s.loadRom image = .refused .loadWhileLoaded) ∨
    (s.loaded = false ∧ (image = .unreadable ∨ ∃ data, image = .bytes data ∧ 3584 < data.length) ∧
      s.loadRom image = .next (s.reply .loadError)) ∨
    (s.loaded = false ∧ ∃ data, image = .bytes data ∧ data.length ≤ 3584 ∧
      s.loadRom image = .next
        ({ s with mem := s.mem.writeBytes 0x200 data, romLen := data.length,
                  loaded := true }.reply .romLoaded)) := by
  unfold State.loadRom
  cases hl : s.loaded with
  | true => simp
  | false =>
    cases image with
    | unreadable => simp
    | bytes data =>
      by_cases h : 3584 < data.length
      · simp [h]
      · simp [h]
        omega

/-- When a power-on happens and when it has no move (R300, R271). -/
theorem State.powerOn_cases (s : State) :
    (s.faultValid = true ∧ s.powerOn = .refused .powerOnWhileFaulted) ∨
    (s.faultValid = false ∧ s.powerOn = .next s.poweredOn) := by
  unfold State.powerOn
  cases s.faultValid <;> simp

/-- When a fault is cleared and when there is none to clear (R242). -/
theorem State.clearFault_cases (s : State) :
    (s.faultValid = true ∧ s.clearFault = .next s.clearFaultRecord) ∨
    (s.faultValid = false ∧ s.clearFault = .refused .noFaultToClear) := by
  unfold State.clearFault
  cases s.faultValid <;> simp

/-- When a palette is set and when it has no move (R240). -/
theorem State.setPalette_cases (s : State) (on off : Color) :
    (on = off ∧ s.setPalette on off = .refused .paletteColorsEqual) ∨
    (on ≠ off ∧ s.setPalette on off = .next { s with colorOn := on, colorOff := off }) := by
  unfold State.setPalette
  by_cases h : on = off <;> simp [h]

end Sys2Proof.Machine
end

