-- ==== Sys2Proof/Tests/Slice0.lean ====
section
/-! SUPPORT. Tests. Expected values come from the spec: words from 30_encoding.md R96, R98 and R104,
results from the vectors of 95_test_vectors.md. The `witness_` theorems show that the hypotheses of
the statements can be met, at the edges of their ranges. -/

namespace Sys2Proof.Tests

open Sys2Proof Machine

/-! ## Helpers -/

/-- A loaded program in a running tick with two slots left, as after reset otherwise. -/
def ready : State := { State.reset with loaded := true, slots := 2 }

/-- One step that fetches and runs the word `w`; a step with no next state gives the state back. -/
def run (s : State) (w : Nat) : State :=
  match step (s.withFetchWord 16 w) with
  | .next t => t
  | .fault _ => s
  | .refused _ => s

/-- Registers set from pairs. -/
def regs (s : State) (l : List (Reg × Byte)) : State := l.foldl (fun t p => t.setV p.1 p.2) s

/-- Bytes placed in memory. -/
def bytes (s : State) (a : Nat) (l : List Byte) : State := { s with mem := s.mem.writeBytes a l }

/-- The state after one step, when there is one. -/
def after (s : State) : State :=
  match step s with
  | .next t => t
  | .fault _ => s
  | .refused _ => s

/-- A state whose host has asked for `op`. -/
def asked (s : State) (op : HostOp) : State := { s with inbox := [op] }

/-! ## Well-formedness -/

theorem test_wellFormed_sprite_height : (Instr.drw 0 0 15).wellFormed = true := by decide
theorem test_illFormed_sprite_height : (Instr.drw 0 0 16).wellFormed = false := by decide

/-! ## Decoding: one word per constructor, bit by bit (R96, R104) -/

theorem test_decode_family_0 :
    decode 0b0000_0000_1110_0000 = .ok (.cls 0) ∧ decode 0b0000_1111_1110_0000 = .ok (.cls 0xF) ∧
    decode 0b0000_0000_1110_1110 = .ok (.ret 0) ∧ decode 0b0000_1010_1110_1110 = .ok (.ret 0xA) := by
  decide

theorem test_decode_addresses :
    decode 0b0001_0010_0011_0100 = .ok (.jp 0x234) ∧ decode 0b0010_0011_0100_0101 = .ok (.call 0x345) ∧
    decode 0b1010_1011_1100_1101 = .ok (.ldI 0xBCD) ∧
    decode 0b1011_1100_1101_1110 = .ok (.jpV0 0xCDE) := by decide

theorem test_decode_immediates :
    decode 0b0011_0100_0101_0110 = .ok (.seImm 4 0x56) ∧
    decode 0b0100_0101_0110_0111 = .ok (.sneImm 5 0x67) ∧
    decode 0b0110_0111_1000_1001 = .ok (.ldImm 7 0x89) ∧
    decode 0b0111_1000_1001_1010 = .ok (.addImm 8 0x9A) ∧
    decode 0b1100_1101_1110_1111 = .ok (.rnd 0xD 0xEF) := by decide

theorem test_decode_register_skips :
    decode 0b0101_0110_0111_0000 = .ok (.seReg 6 7 0) ∧
    decode 0b0101_0110_0111_1111 = .ok (.seReg 6 7 0xF) ∧
    decode 0b1001_1010_1011_0000 = .ok (.sneReg 0xA 0xB 0) ∧
    decode 0b1001_1010_1011_0001 = .ok (.sneReg 0xA 0xB 1) := by decide

theorem test_decode_family_8 :
    decode 0b1000_0001_0010_0000 = .ok (.ldReg 1 2) ∧ decode 0b1000_0001_0010_0001 = .ok (.or 1 2) ∧
    decode 0b1000_0001_0010_0010 = .ok (.and 1 2) ∧ decode 0b1000_0001_0010_0011 = .ok (.xor 1 2) ∧
    decode 0b1000_1010_1011_0100 = .ok (.addReg 0xA 0xB) ∧
    decode 0b1000_0001_0010_0101 = .ok (.sub 1 2) ∧ decode 0b1000_0001_0010_0110 = .ok (.shr 1 2) ∧
    decode 0b1000_0001_0010_0111 = .ok (.subn 1 2) ∧ decode 0b1000_0001_0010_1110 = .ok (.shl 1 2) := by
  decide

theorem test_decode_sprite : decode 0b1101_0001_0010_0011 = .ok (.drw 1 2 3) := by decide

theorem test_decode_family_E :
    decode 0b1110_0001_1001_1110 = .ok (.skp 1) ∧ decode 0b1110_0001_1010_0001 = .ok (.sknp 1) := by
  decide

theorem test_decode_family_F :
    decode 0b1111_0001_0000_0111 = .ok (.ldVxDt 1) ∧ decode 0b1111_0001_0000_1010 = .ok (.ldVxK 1) ∧
    decode 0b1111_0001_0001_0101 = .ok (.ldDtVx 1) ∧ decode 0b1111_0001_0001_1000 = .ok (.ldStVx 1) ∧
    decode 0b1111_0001_0001_1110 = .ok (.addI 1) ∧ decode 0b1111_0001_0010_1001 = .ok (.ldF 1) ∧
    decode 0b1111_0001_0011_0011 = .ok (.ldB 1) ∧ decode 0b1111_0001_0101_0101 = .ok (.ldMemVx 1) ∧
    decode 0b1111_0001_0110_0101 = .ok (.ldVxMem 1) := by decide

/-! ### Words with no row (R97; group D of 95_test_vectors.md) -/

theorem test_invalid_family_0 :
    decode 0x0000 = .error .invalidFamily0 ∧
    decode 0x0123 = .error .invalidFamily0 ∧
    decode 0x00EF = .error .invalidFamily0 := by decide

theorem test_invalid_family_8 :
    decode 0x8128 = .error .invalidFamily8 ∧
    decode 0x812D = .error .invalidFamily8 ∧
    decode 0x812F = .error .invalidFamily8 := by decide

theorem test_invalid_family_E :
    decode 0xE000 = .error .invalidFamilyE ∧
    decode 0xE19F = .error .invalidFamilyE := by decide

theorem test_invalid_family_F :
    decode 0xF100 = .error .invalidFamilyF ∧
    decode 0xF1FF = .error .invalidFamilyF ∧
    decode 0xF156 = .error .invalidFamilyF := by decide

/-- R66: the byte at the lower address is the high byte of the word. -/
theorem test_decode_bytes_big_endian :
    decodeBytes [0x12, 0x34, 0x56] = .ok (.jp 0x234, [0x56]) ∧
    decodeBytes [0x12] = .error .truncated := by decide

theorem test_decodeTableWord :
    decodeTableWord 16 0xD123 = some (.drw 1 2 3) ∧ decodeTableWord 16 0x8128 = none := by decide

/-! ## One step (95_test_vectors.md groups C, A, M, G, K) -/

theorem test_cls :
    let t := run { ready with fb := Vector.replicate 32 (Vector.replicate 64 true) } 0x00E0
    t.fb.pixel 0 0 = false ∧ t.fb.pixel 63 31 = false := by decide

theorem test_ret_pops :
    let t := run { ready with sp := 1, stack := ready.stack.set 0 0x206, pc := 0x20C } 0x00EE
    t.pc = 0x206 ∧ t.sp = 0 ∧ t.stack[0] = 0x206 := by decide

theorem test_ret_underflow :
    let t := run ready 0x00EE
    t.pc = 0x202 ∧ t.faultValid = true ∧ t.faultCode = .stackUnderflow ∧ t.faultAddr = 0x200 ∧
      t.faultWord = 0x00EE ∧ t.slots = 0 := by decide

theorem test_jp : (run ready 0x1FFF).pc = 0xFFF := by decide

theorem test_call_pushes :
    let t := run { ready with sp := 14, pc := 0x250 } 0x2300
    t.stack[14] = 0x252 ∧ t.sp = 15 ∧ t.pc = 0x300 := by decide

theorem test_call_overflow :
    let t := run { ready with sp := 15, pc := 0x250 } 0x2300
    t.faultCode = .stackOverflow ∧ t.faultAddr = 0x250 ∧ t.faultWord = 0x2300 ∧ t.sp = 15 ∧
      t.pc = 0x252 ∧ t.stack = ready.stack := by decide

theorem test_seImm_skips : (run { ready with pc := 0x208 } 0x3100).pc = 0x20C := by decide
theorem test_seImm_stays : (run (regs { ready with pc := 0x208 } [(1, 1)]) 0x3100).pc = 0x20A := by
  decide
theorem test_sneImm_skips : (run (regs { ready with pc := 0x300 } [(2, 0x10)]) 0x4211).pc = 0x304 := by
  decide
theorem test_sneImm_stays : (run (regs { ready with pc := 0x300 } [(2, 0x11)]) 0x4211).pc = 0x302 := by
  decide
theorem test_seReg : (run (regs { ready with pc := 0x220 } [(3, 1), (4, 2)]) 0x5340).pc = 0x222 := by
  decide
theorem test_seReg_same : (run (regs { ready with pc := 0x220 } [(3, 1)]) 0x5330).pc = 0x224 := by
  decide
theorem test_sneReg : (run (regs { ready with pc := 0x220 } [(3, 1), (4, 2)]) 0x9340).pc = 0x224 := by
  decide
theorem test_sneReg_same : (run (regs { ready with pc := 0x220 } [(3, 1)]) 0x9330).pc = 0x222 := by
  decide
theorem test_jpV0_past_memory : (run (regs ready [(0, 0xFF)]) 0xBFFF).pc = 0x10FE := by decide
theorem test_jpV0_ignores_X : (run (regs ready [(3, 0x77)]) 0xB300).pc = 0x300 := by decide

theorem test_ldImm : (run ready 0x60EA).getV 0 = 0xEA := by decide
theorem test_addImm_wraps :
    let t := run (regs ready [(1, 0xFF)]) 0x7101
    t.getV 1 = 0 ∧ t.getV vf = 0 := by decide
theorem test_ldReg : (run (regs ready [(2, 0x33)]) 0x8120).getV 1 = 0x33 := by decide
theorem test_or :
    let t := run (regs ready [(1, 0xF0), (2, 0x0F), (15, 1)]) 0x8121
    t.getV 1 = 0xFF ∧ t.getV vf = 1 := by decide
theorem test_and : (run (regs ready [(1, 0xF0), (2, 0x3C)]) 0x8122).getV 1 = 0x30 := by decide
theorem test_xor : (run (regs ready [(1, 0xFF), (2, 0x0F)]) 0x8123).getV 1 = 0xF0 := by decide
theorem test_addReg_carry :
    let t := run (regs ready [(1, 0xFA), (2, 0x0A)]) 0x8124
    t.getV 1 = 4 ∧ t.getV vf = 1 := by decide
theorem test_addReg_into_vf : (run (regs ready [(15, 0xF0), (1, 0x20)]) 0x8F14).getV vf = 0x10 := by
  decide
theorem test_sub_borrow :
    let t := run (regs ready [(1, 5), (2, 0x0A)]) 0x8125
    t.getV 1 = 0xFB ∧ t.getV vf = 0 := by decide
theorem test_sub_equal :
    let t := run (regs ready [(1, 7), (2, 7)]) 0x8125
    t.getV 1 = 0 ∧ t.getV vf = 1 := by decide
theorem test_shr :
    let t := run (regs ready [(1, 5), (2, 0xFF)]) 0x8126
    t.getV 1 = 2 ∧ t.getV 2 = 0xFF ∧ t.getV vf = 1 := by decide
theorem test_shr_vf : (run (regs ready [(15, 5)]) 0x8F16).getV vf = 2 := by decide
theorem test_subn :
    let t := run (regs ready [(1, 0x0A), (2, 5)]) 0x8127
    t.getV 1 = 0xFB ∧ t.getV vf = 0 := by decide
theorem test_subn_no_borrow :
    let t := run (regs ready [(1, 5), (2, 0x0A)]) 0x8127
    t.getV 1 = 5 ∧ t.getV vf = 1 := by decide
theorem test_shl :
    let t := run (regs ready [(1, 0x81)]) 0x812E
    t.getV 1 = 2 ∧ t.getV vf = 1 := by decide
theorem test_shl_vf : (run (regs ready [(15, 0x81)]) 0x8F1E).getV vf = 2 := by decide

theorem test_ldI : (run ready 0xAFFF).i = 0xFFF := by decide
theorem test_addI_wraps : (run (regs { ready with i := 0xFFFF } [(1, 2)]) 0xF11E).i = 1 := by decide
theorem test_addI_vf : (run (regs { ready with i := 0x100 } [(15, 0x10)]) 0xFF1E).i = 0x110 := by
  decide
theorem test_ldF_high_nibble : (run (regs ready [(0, 0x1A)]) 0xF029).i = 0x32 := by decide
theorem test_ldB :
    let t := run (regs { ready with i := 0xFFD } [(0, 0x7B)]) 0xF033
    t.mem.readBytes 0xFFD 3 = [1, 2, 3] := by decide
theorem test_ldB_range :
    let t := run (regs { ready with i := 0xFFE } [(0, 0x7B)]) 0xF033
    t.faultCode = .memRangeData ∧ t.faultAddr = 0x200 ∧ t.faultWord = 0xF033 ∧ t.pc = 0x202 ∧
      t.mem.readBytes 0xFFE 2 = [0, 0] := by decide
theorem test_ldMemVx_wraps :
    let t := run (regs { ready with i := 0xFFE } [(0, 0x11), (1, 0x22), (2, 0x33), (3, 0x44)]) 0xF355
    t.mem.readBytes 0xFFE 2 = [0x11, 0x22] ∧ t.mem.readBytes 0 3 = [0x33, 0x44, 0x90] ∧
      t.i = 0xFFE := by decide
theorem test_ldVxMem_font :
    let t := run (regs ready [(5, 0x99)]) 0xF465
    t.getV 0 = 0xF0 ∧ t.getV 1 = 0x90 ∧ t.getV 4 = 0xF0 ∧ t.getV 5 = 0x99 ∧ t.i = 0 := by decide
/-- Another value of `FONT` is the one that is read, also after a hard reset. -/
theorem test_other_font :
    let s := State.resetWith (Vector.replicate 80 0xAA)
    s.mem.readBytes 0x4F 2 = [0xAA, 0] ∧ s.hardReset.mem.readBytes 0x4F 2 = [0xAA, 0] ∧
      s.poweredOn.mem.readBytes 0x4F 2 = [0xAA, 0] := by decide

theorem test_ldVxMem_wraps :
    let t := run { ready with i := 0xFFF } 0xF165
    t.getV 0 = 0 ∧ t.getV 1 = 0xF0 := by decide

theorem test_drw_clips :
    let t := run (bytes (regs { ready with i := 0x300 } [(0, 62), (1, 0)]) 0x300 [0xFF]) 0xD011
    t.fb.pixel 62 0 = true ∧ t.fb.pixel 63 0 = true ∧ t.fb.pixel 0 0 = false ∧
      t.fb.pixel 61 0 = false ∧ t.fb.pixel 62 1 = false ∧ t.getV vf = 0 := by decide
theorem test_drw_range :
    let t := run (regs { ready with i := 0xFFF } [(15, 7)]) 0xD012
    t.faultCode = .memRangeData ∧ t.faultWord = 0xD012 ∧ t.getV vf = 7 := by decide

theorem test_skp_high_nibble :
    (run (regs { ready with pc := 0x210, key := 0x20 } [(0, 0x15)]) 0xE09E).pc = 0x214 := by decide
theorem test_sknp : (run (regs { ready with pc := 0x210, key := 0x20 } [(0, 5)]) 0xE0A1).pc = 0x212 := by
  decide
theorem test_ldVxDt : (run { ready with dt := 0x3C } 0xF107).getV 1 = 0x3C := by decide
theorem test_ldVxK_lowest :
    let t := run (regs { ready with keyPrev := 0x0208 } [(0, 7)]) 0xF00A
    t.getV 0 = 3 ∧ t.pc = 0x202 := by decide
theorem test_ldVxK_held :
    let t := run { ready with keyPrev := 0x20, key := 0x20 } 0xF30A
    t.pc = 0x200 ∧ t.getV 3 = 0 := by decide
theorem test_ldDtVx : (run (regs ready [(1, 0x3C)]) 0xF115).dt = 0x3C := by decide
theorem test_ldStVx : (run (regs ready [(2, 5)]) 0xF218).st = 5 := by decide

/-- R154: whatever is drawn, `RND Vx, 0` gives 0; any draw leaves the masked bits alone. -/
theorem test_rnd_mask_zero : (run (regs ready [(0, 9)]) 0xC000).getV 0 = 0 := by
  show Config.freeDraw 0 &&& 0 = 0
  exact BitVec.and_zero

/-! ## Host and tick (group E) -/

theorem test_first_step_after_reset :
    (run State.reset 0x60EA).getV 0 = 0xEA ∧ (run State.reset 0x60EA).slots = 10 := by decide

theorem test_loadRom_then_tick :
    let t := after (after { State.reset with inbox := [.loadRom (.bytes [0x60, 0x01]), .tick 0x0020] })
    t.mem.readBytes 0x200 2 = [0x60, 0x01] ∧ t.romLen = 2 ∧ t.loaded = true ∧ t.slots = 11 ∧
      t.key = 0x0020 ∧ t.outbox = [.romLoaded] := by decide

theorem test_tick_halted :
    let t := after (asked State.reset (.tick 0xFFFF))
    t.key = 0 ∧ t.slots = 0 ∧ t.inbox = [] := by decide

theorem test_empty_program_faults :
    let t := after (after (after { State.reset with inbox := [.loadRom (.bytes []), .tick 0] }))
    t.faultCode = .invalidOpcode ∧ t.faultAddr = 0x200 ∧ t.faultWord = 0 ∧ t.pc = 0x202 := by decide

theorem test_fetch_fault :
    let t := after { ready with pc := 0xFFF }
    t.faultCode = .memRangeFetch ∧ t.faultAddr = 0xFFF ∧ t.faultWord = 0 ∧ t.pc = 0xFFF := by decide

theorem test_last_slot_decrements :
    let t := run { ready with slots := 1, dt := 3, st := 0 } 0x1200
    t.dt = 2 ∧ t.st = 0 ∧ t.slots = 0 := by decide

theorem test_pixel_colors :
    let s := { ready with colorOn := 7, colorOff := 9, fb := ready.fb.set 0 (ready.fb[0].set 1 true) }
    s.pixelColor 0 0 = 9 ∧ s.pixelColor 1 0 = 7 := by decide

/-! ## Witnesses: the hypotheses of the statements can be met -/

/-- The state at the entry of a slot whose next word is `w`. -/
def fetching (s : State) (w : Nat) : State := s.withFetchWord 16 w

theorem witness_DecodingAnEncodedInstructionGivesItBack :
    (Instr.drw 15 15 15).wellFormed = true ∧ (Instr.cls 15).wellFormed = true := by decide

theorem witness_EncodingADecodedWordGivesItBack :
    decode 0xDFFF = .ok (.drw 15 15 15) ∧ decode 0x0FE0 = .ok (.cls 15) := by decide

theorem witness_DecoderSelectsTheTableRow :
    decode 0x8AB6 = .ok (.shr 0xA 0xB) ∧
      (0x8AB6 : Word) &&& (Instr.shr 0 0).row.mask = (Instr.shr 0 0).row.pattern := by decide

theorem witness_ReturnPopsOrUnderflows :
    ({ ready with sp := 1 }).sp ≠ 0 ∧ ({ ready with sp := 15 }).sp ≠ 0 ∧ ready.sp = 0 := by decide

theorem witness_CallPushesOrOverflows :
    ready.sp ≠ 15 ∧ ({ ready with sp := 14 }).sp ≠ 15 ∧ ({ ready with sp := 15 }).sp = 15 := by
  decide

theorem witness_ReturnUndoesCall : ready.sp ≠ 15 ∧ ({ ready with sp := 14 }).sp ≠ 15 := by decide

/-- For AddSetsCarry, SubtractionsSetNoBorrow and ShiftsMoveOneBitIntoTheFlag. -/
theorem witness_destination_not_vf : (0 : Reg) ≠ vf ∧ (14 : Reg) ≠ vf := by decide

theorem witness_BcdStoresThreeDigits :
    ({ ready with i := 0xFFD }).mem.wf ∧ ({ ready with i := 0xFFD }).i.toNat + 2 < 4096 ∧
      4096 ≤ ({ ready with i := 0xFFE }).i.toNat + 2 := by decide

theorem witness_DumpStoresRegistersWrapping :
    ready.canonical ∧ (bytes ready 0 [1, 2, 3]).canonical := by
  unfold State.canonical
  decide

theorem witness_LoadInvertsDump :
    ready.canonical ∧ ({ ready.dump 15 with v := Vector.replicate 16 7 }).i = (ready.dump 15).i ∧
      ({ ready.dump 15 with v := Vector.replicate 16 7 }).mem = (ready.dump 15).mem :=
  ⟨by unfold State.canonical; decide, rfl, rfl⟩

theorem witness_DrawTogglesTheCoveredPixels :
    ¬ outOfRange (effectiveAddr { ready with i := 0xFF1 } 0) 15 ∧
      ¬ outOfRange (effectiveAddr { ready with i := 0x1000 } 0) 0 := by decide

/-- A pixel on the grid that a sprite bit lands on, and one that none lands on. -/
theorem witness_SpriteCovers :
    SpriteCovers (bytes { ready with i := 0x300 } 0x300 [0x80]) 0 1 1 0 0 ∧
      ¬ SpriteCovers (bytes { ready with i := 0x300 } 0x300 [0x80]) 0 1 1 0 1 := by
  refine ⟨⟨0, 0, by decide⟩, ?_⟩
  rintro ⟨r, c, hr, -, -, hy, -⟩
  obtain rfl : r = 0 := by omega
  exact absurd hy (by decide)

theorem witness_DataRangeFaults :
    (1 ≤ 1 ∧ 4096 ≤ ({ ready with i := 0x1000 }).i.toNat + 1 - 1) ∧
      (1 ≤ 15 ∧ 4096 ≤ ({ ready with i := 0xFF2 }).i.toNat + 15 - 1) ∧
      4096 ≤ ({ ready with i := 0xFFE }).i.toNat + 2 := by decide

theorem witness_SpriteRoundTrips :
    ¬ outOfRange (effectiveAddr { ready with i := 0x300 } 0) 5 ∧
      (∀ r, r < 5 → ({ ready with i := 0x300 }).mem.read (effectiveAddr { ready with i := 0x300 } r) = 0) ∧
      (0 : Reg) ≠ vf ∧ (14 : Reg) ≠ vf := by decide

theorem witness_KeyWaitTakesTheLowestReleasedKey :
    (({ ready with keyPrev := 0x8000 }).keyPrev.getLsbD 15 = true ∧
      ({ ready with keyPrev := 0x8000 }).key.getLsbD 15 = false ∧
      ∀ j, j < 15 → ¬ (({ ready with keyPrev := 0x8000 }).keyPrev.getLsbD j = true ∧
        ({ ready with keyPrev := 0x8000 }).key.getLsbD j = false)) ∧
    (({ ready with keyPrev := 1 }).keyPrev.getLsbD 0 = true ∧
      ({ ready with keyPrev := 1 }).key.getLsbD 0 = false) ∧
    ∀ k, k < 16 → ¬ (ready.keyPrev.getLsbD k = true ∧ ready.key.getLsbD k = false) := by decide

/-- Before the last slot and at it. -/
theorem witness_KeyWaitReexecutes :
    1 < (fetching ready 0xF30A).slots ∧ (fetching { ready with slots := 1 } 0xF30A).slots = 1 ∧
      (fetching ready 0xF30A).faultValid = false ∧
      (fetching ready 0xF30A).pc.toNat ≤ 0xFFE ∧
      decode ((fetching ready 0xF30A).mem.fetchWord (fetching ready 0xF30A).pc.toNat) = .ok (.ldVxK 3) ∧
      ∀ k, k < 16 → ¬ ((fetching ready 0xF30A).keyPrev.getLsbD k = true ∧
        (fetching ready 0xF30A).key.getLsbD k = false) := by decide

/-- For InstructionsLeaveTheHostsStateAlone and LastStackEntryIsNeverWritten. -/
theorem witness_exec_next :
    exec (.ldImm 15 7) ready = .next (ready.setV 15 7) ∧
      exec (.call 0x300) { ready with sp := 14 } = .next { ready with
        sp := 15, stack := ready.stack.set 14 0x200, pc := 0x300 } := ⟨rfl, rfl⟩

theorem witness_OnlyTheNamedInstructionsWrite_registers :
    (exec (.ldI 0x300) ready = .next { ready with i := 0x300 } ∧
      ¬ StatePart.index.same ready { ready with i := 0x300 }) ∧
    (exec (.ret 0) { ready with sp := 1, pc := 0x20C } =
        .next { ready with sp := 0, pc := 0 } ∧
      ¬ StatePart.stack.same { ready with sp := 1, pc := 0x20C } { ready with sp := 0, pc := 0 }) ∧
    (exec (.ldDtVx 0) { ready with dt := 9 } = .next { ready with dt := 0 } ∧
      ¬ StatePart.delay.same { ready with dt := 9 } { ready with dt := 0 }) ∧
    (exec (.ldStVx 0) { ready with st := 9 } = .next { ready with st := 0 } ∧
      ¬ StatePart.sound.same { ready with st := 9 } { ready with st := 0 }) ∧
    (exec (.rnd 0 0xFF) ready =
        .next { ready.setV 0 (Config.freeDraw 0 &&& 0xFF) with draws := 1 } ∧
      ¬ StatePart.draws.same ready
        { ready.setV 0 (Config.freeDraw 0 &&& 0xFF) with draws := 1 }) := by
  refine ⟨⟨rfl, ?_⟩, ⟨rfl, ?_⟩, ⟨rfl, ?_⟩, ⟨rfl, ?_⟩, ⟨rfl, ?_⟩⟩
  · show ¬ (0x300 : Word) = 0
    decide
  · exact fun h => absurd h.1 (by decide)
  · show ¬ (0 : Byte) = 9
    decide
  · show ¬ (0 : Byte) = 9
    decide
  · show ¬ (1 : Nat) = 0
    decide

theorem witness_OnlyTheNamedInstructionsWrite_memory_and_display :
    (exec (.ldB 0) { regs ready [(0, 123)] with i := 0x300 } =
        .next (bytes { regs ready [(0, 123)] with i := 0x300 } 0x300 [1, 2, 3]) ∧
      ¬ StatePart.memory.same { regs ready [(0, 123)] with i := 0x300 }
        (bytes { regs ready [(0, 123)] with i := 0x300 } 0x300 [1, 2, 3])) ∧
    (exec (.cls 0) { ready with fb := (Display.toggle (ready.fb, false) 5 6).1 } = .next ready ∧
      ¬ StatePart.display.same { ready with fb := (Display.toggle (ready.fb, false) 5 6).1 } ready) :=
  ⟨⟨rfl, fun h => absurd (h 0x300) (by decide)⟩, ⟨rfl, fun h => absurd (h 5 6) (by decide)⟩⟩

theorem witness_OnlySixInstructionsWriteTheFlag :
    exec (.shr 1 0) (regs ready [(1, 1)]) = .next (regs ready [(1, 1), (15, 1), (1, 0)]) ∧
      (regs ready [(1, 1), (15, 1), (1, 0)]).getV vf ≠ (regs ready [(1, 1)]).getV vf :=
  ⟨rfl, by decide⟩

theorem witness_OnlyControlTransfersMoveThePc :
    exec (.jpV0 0xFFF) (regs ready [(0, 0xFF)]) = .next { regs ready [(0, 0xFF)] with pc := 0x10FE } ∧
      ({ regs ready [(0, 0xFF)] with pc := 0x10FE }).pc ≠ (regs ready [(0, 0xFF)]).pc :=
  ⟨rfl, by decide⟩

/-- Two states a program cannot tell apart. -/
theorem witness_ProgramsCannotSeeTheHostsFields :
    ({ ready with st := 5, romLen := 2, inbox := [.readOut] }).asSeenByPrograms =
      ready.asSeenByPrograms ∧ ({ ready with st := 5, romLen := 2, inbox := [.readOut] }).st ≠ ready.st :=
  ⟨rfl, by decide⟩

/-- A word that decodes, at the last address a fetch can reach, before the last slot and at it. -/
theorem witness_StepRunsTheDecodedInstruction :
    (fetching { ready with pc := 0xFFE } 0x1234).slots ≠ 0 ∧
      (fetching { ready with pc := 0xFFE } 0x1234).pc.toNat ≤ 0xFFE ∧
      decodeBytes [(fetching { ready with pc := 0xFFE } 0x1234).mem.read 0xFFE,
        (fetching { ready with pc := 0xFFE } 0x1234).mem.read (0xFFE + 1)] = .ok (.jp 0x234, []) ∧
      (fetching { ready with slots := 1 } 0x1234).slots = 1 ∧ ready.faultValid = false := by decide

/-- For the clause of StepRunsTheDecodedInstruction that ends the tick, and for FaultsArePrecise and
FaultEndsTheTickAndLaterTicksDoNothing: a slot that latches a fault, with a tick asked for. -/
theorem witness_faulting_slot :
    let s := fetching { ready with inbox := [.tick 3] } 0x00EE
    s.slots ≠ 0 ∧ s.faultValid = false ∧ step s = .next (after s) ∧ (after s).faultValid = true ∧
      (after s).inbox = .tick 3 :: [] :=
  ⟨by decide, by decide, rfl, by decide, rfl⟩

/-- A tick asked for while a fault is latched, the fault not of the slot before. -/
theorem witness_tick_while_faulted :
    let s := { (ready.raise .memRangeData 0x300 0xF033) with slots := 0, inbox := [.tick 3] }
    s.slots = 0 ∧ s.faultValid = true ∧ s.inbox = .tick 3 :: [] := by decide

theorem witness_FetchPastMemoryFaults :
    ready.slots ≠ 0 ∧ 0xFFE < ({ ready with pc := 0xFFF }).pc.toNat := by decide

theorem witness_InvalidWordFaults :
    ({ ready with pc := 0xFFE }).slots ≠ 0 ∧ ({ ready with pc := 0xFFE }).pc.toNat ≤ 0xFFE ∧
      decode (({ ready with pc := 0xFFE }).mem.fetchWord 0xFFE) = .error .invalidFamily0 := by decide

/-- Each of the five conditions, at its edge. -/
theorem witness_FaultsExactlyOnTheirConditions :
    (after { ready with pc := 0xFFF }).faultCode = .memRangeFetch ∧
      (after { ready with pc := 0xFFE }).faultCode = .invalidOpcode ∧
      (run { ready with sp := 15 } 0x2300).faultCode = .stackOverflow ∧
      (run { ready with sp := 0 } 0x00EE).faultCode = .stackUnderflow ∧
      (run { ready with i := 0xFFE } 0xF033).faultCode = .memRangeData ∧
      (run { ready with i := 0x1000 } 0xD011).faultCode = .memRangeData ∧
      (run { ready with i := 0x1000 } 0xD010).faultCode = .none := by decide

theorem witness_TickStartsByRunState :
    let s := { ready with slots := 0, inbox := [.tick 3] }
    s.slots = 0 ∧ s.inbox = .tick 3 :: [] ∧ s.faultValid = false ∧
      ({ s with loaded := false }).loaded = false ∧
      (s.loaded = true ∧ ({ s with pause := true }).pause = true) ∧
      (s.loaded = true ∧ s.pause = false ∧ s.ipt ≠ 0) := by decide

/-- For both parts of TimersCountDownOncePerTick and both values of its first part. -/
theorem witness_TimersCountDownOncePerTick :
    (let s := fetching { ready with slots := 1 } 0x1200;
      s.slots ≠ 0 ∧ slotStep s = .next { s with pc := 0x200 } ∧
        ({ s with pc := 0x200 }).faultValid = false ∧ s.slots = 1) ∧
    (let s := fetching ready 0x1200;
      s.slots ≠ 0 ∧ slotStep s = .next { s with pc := 0x200 } ∧ s.slots ≠ 1) ∧
    (let s := { ready with slots := 0, ipt := 0, inbox := [.tick 3] };
      s.slots = 0 ∧ s.inbox = .tick 3 :: [] ∧ s.faultValid = false ∧ s.loaded = true ∧
        s.pause = false ∧ s.ipt = 0) :=
  ⟨⟨by decide, rfl, by decide, by decide⟩, ⟨by decide, rfl, by decide⟩, by decide⟩

theorem witness_SteppedTickIsTheWholeTick :
    (asked { ready with slots := 0 } (.tick 3)).slots = 0 ∧
      (asked { ready with slots := 0 } (.tick 3)).inbox = .tick 3 :: [] := by decide

/-- A running state that meets every invariant and takes a step. -/
theorem witness_StepKeepsInvariants :
    ready.canonical ∧ ready.pcBounded ∧ step ready = .next (after ready) := by
  refine ⟨?_, ?_, rfl⟩
  · unfold State.canonical
    decide
  · unfold State.pcBounded
    decide

/-- The boundary of the PC: `JP V0` can lead there. -/
theorem witness_StepKeepsPcBounded : ({ ready with pc := 0x10FE }).pcBounded := by
  unfold State.pcBounded
  decide

theorem witness_StepKeepsCoherent :
    ({ ready with colorOn := 1, colorOff := 0, romLen := 3584 }).coherent ∧
      step { ready with colorOn := 1, colorOff := 0, romLen := 3584 } =
        .next (after { ready with colorOn := 1, colorOff := 0, romLen := 3584 }) :=
  ⟨⟨by decide, by decide, by decide, by decide, by decide, by decide⟩, rfl⟩

theorem witness_StepKeepsHaltedAsReset :
    let s := { State.reset with colorOn := 1, colorOff := 0, inbox := [.setIpt 5] }
    s.coherent ∧ s.haltedAsReset ∧ s.loaded = false ∧ step s = .next (after s) :=
  ⟨⟨by decide, by decide, by decide, by decide, by decide, by decide⟩, fun _ => rfl, rfl, rfl⟩

/-- Both clauses: with no fault latched, also while a program is loaded, and with one. -/
theorem witness_PowerOnInstallsTheResetValues :
    (asked State.reset .powerOn).slots = 0 ∧ (asked State.reset .powerOn).inbox = .powerOn :: [] ∧
      (asked State.reset .powerOn).faultValid = false ∧
      (asked { ready with slots := 0 } .powerOn).faultValid = false ∧
      (asked (State.reset.raise .invalidOpcode 0x200 0) .powerOn).slots = 0 ∧
      (asked (State.reset.raise .invalidOpcode 0x200 0) .powerOn).inbox = .powerOn :: [] ∧
      (asked (State.reset.raise .invalidOpcode 0x200 0) .powerOn).faultValid = true := by decide

theorem witness_ResetsAndClearFault :
    (asked State.reset .hardReset).slots = 0 ∧
      (asked State.reset .hardReset).inbox = .hardReset :: [] ∧
      (asked State.reset .softReset).inbox = .softReset :: [] ∧
      (asked (State.reset.raise .invalidOpcode 0x200 0) .clearFault).slots = 0 ∧
      (asked (State.reset.raise .invalidOpcode 0x200 0) .clearFault).inbox = .clearFault :: [] ∧
      (asked (State.reset.raise .invalidOpcode 0x200 0) .clearFault).faultValid = true := by decide

/-- For the last clause of ResetsAndClearFault: each of the three ways out of a fault. -/
theorem witness_ways_out_of_a_fault :
    ∀ op ∈ [HostOp.hardReset, .softReset, .clearFault],
      let s := asked ({ ready with slots := 0 }.raise .invalidOpcode 0x200 0) op
      s.faultValid = true ∧ step s = .next (after s) ∧ (after s).faultValid = false := by
  intro op h
  rcases List.mem_cons.mp h with rfl | h
  · exact ⟨rfl, rfl, rfl⟩
  · rcases List.mem_cons.mp h with rfl | h
    · exact ⟨rfl, rfl, rfl⟩
    · rcases List.mem_singleton.mp h with rfl
      exact ⟨rfl, rfl, rfl⟩

/-- The longest image that fits, the shortest that does not, none, and an unreadable one. -/
theorem witness_LoadRomPlacesTheImage :
    let image := Image.bytes (List.replicate 3584 0)
    (asked State.reset (.loadRom image)).canonical ∧
      (asked State.reset (.loadRom image)).slots = 0 ∧
      (asked State.reset (.loadRom image)).loaded = false ∧
      (asked State.reset (.loadRom image)).inbox = .loadRom image :: [] ∧
      (List.replicate 3584 (0 : Byte)).length ≤ 3584 ∧
      3584 < (List.replicate 3585 (0 : Byte)).length ∧ ([] : List Byte).length ≤ 3584 := by
  refine ⟨?_, rfl, rfl, rfl, ?_, ?_, by decide⟩
  · exact ⟨.nil, fun c hc => nomatch hc⟩
  · rw [List.length_replicate]
  · rw [List.length_replicate]
    decide

theorem witness_SettersSetTheirRegisterOnly :
    (asked { ready with slots := 0 } (.setIpt 0)).slots = 0 ∧
      (asked ready (.setIpt 0)).inbox = .setIpt 0 :: [] ∧
      (asked ready (.setPause true)).inbox = .setPause true :: [] ∧
      ((asked ready (.setPalette 1 2)).inbox = .setPalette 1 2 :: [] ∧ (1 : Color) ≠ 2) := by decide

theorem witness_ReadOutDeliversThePixels :
    (asked State.reset .readOut).slots = 0 ∧ (asked State.reset .readOut).inbox = .readOut :: [] := by
  decide

/-- For OnlyHostPreconditionsHaveNoMove: each of the four, and a state that moves. -/
theorem witness_OnlyHostPreconditionsHaveNoMove :
    step (asked { ready with slots := 0 } (.loadRom .unreadable)) = .refused .loadWhileLoaded ∧
      step (asked State.reset (.setPalette 1 1)) = .refused .paletteColorsEqual ∧
      step (asked State.reset .clearFault) = .refused .noFaultToClear ∧
      step (asked (State.reset.raise .invalidOpcode 0x200 0) .powerOn) =
        .refused .powerOnWhileFaulted ∧
      step State.reset = .next State.reset := ⟨rfl, rfl, rfl, rfl, rfl⟩

end Sys2Proof.Tests
end

section
/-! The skips (40_control_flow.md R120, R124, R125): what `exec` answers for the two immediate forms,
and the one rule for every instruction that skips on a condition. -/

namespace Sys2Proof.Machine

theorem exec_seImm (x : Reg) (nn : Byte) (s : State) :
    exec (.seImm x nn) s = .next (s.skipIf (s.getV x == nn)) := rfl

theorem exec_sneImm (x : Reg) (nn : Byte) (s : State) :
    exec (.sneImm x nn) s = .next (s.skipIf (s.getV x != nn)) := rfl

/-- An instruction that skips on a test deciding `P` moves PC by `P` and changes nothing else. -/
theorem exec_skips {i : Instr} {s : State} {c : Bool} {P : Prop} [Decidable P]
    (hexec : exec i s = .next (s.skipIf c)) (htest : c = true ↔ P) :
    ∃ t, exec i s = .next t ∧ t.pc = (if P then s.pc + 2 else s.pc) ∧ FrameBut [.pc] s t := by
  have hpc : (s.skipIf c).pc = if P then s.pc + 2 else s.pc := by
    simp only [State.skipIf_pc, htest]
  exact ⟨s.skipIf c, hexec, hpc, s.frame_skipIf c⟩

/-- Settles O9: both are skips, on a test that decides equality with the immediate byte. -/
theorem skipsCompareWithTheImmediate : Obligations.SkipsCompareWithTheImmediate := by
  unfold Obligations.SkipsCompareWithTheImmediate
  intro x nn s
  exact ⟨exec_skips (exec_seImm x nn s) beq_iff_eq, exec_skips (exec_sneImm x nn s) bne_iff_ne⟩

end Sys2Proof.Machine
end

section
/-! The register writes without a flag (41_alu.md R143 to R148): what `exec` answers for each, and
the one rule for every instruction that writes one register and nothing else. -/

namespace Sys2Proof.Machine

theorem exec_ldImm (x : Reg) (nn : Byte) (s : State) :
    exec (.ldImm x nn) s = .next (s.setV x nn) := rfl

theorem exec_ldReg (x y : Reg) (s : State) :
    exec (.ldReg x y) s = .next (s.setV x (s.getV y)) := rfl

theorem exec_addImm (x : Reg) (nn : Byte) (s : State) :
    exec (.addImm x nn) s = .next (s.setV x (s.getV x + nn)) := rfl

theorem exec_or (x y : Reg) (s : State) :
    exec (.or x y) s = .next (s.setV x (s.getV x ||| s.getV y)) := rfl

theorem exec_and (x y : Reg) (s : State) :
    exec (.and x y) s = .next (s.setV x (s.getV x &&& s.getV y)) := rfl

theorem exec_xor (x y : Reg) (s : State) :
    exec (.xor x y) s = .next (s.setV x (s.getV x ^^^ s.getV y)) := rfl

/-- An instruction that writes `b` to `x` changes neither another register (so no flag) nor another
part of the state. -/
theorem exec_writesReg {i : Instr} {s : State} {x : Reg} {b : Byte}
    (hexec : exec i s = .next (s.setV x b)) :
    ∃ t, exec i s = .next t ∧ t.getV x = b ∧ RegsBut [x] s t ∧ FrameBut [.regs] s t :=
  ⟨s.setV x b, hexec, s.getV_setV_same x b, s.regsBut_setV x b, s.frame_setV x b⟩

/-- The same with the byte written given bit by bit. -/
theorem exec_writesBits {i : Instr} {s : State} {x : Reg} {b : Byte} {bit : Nat → Bool}
    (hexec : exec i s = .next (s.setV x b)) (hbit : ∀ k, b.getLsbD k = bit k) :
    ∃ t, exec i s = .next t ∧ (∀ k, (t.getV x).getLsbD k = bit k) ∧
      RegsBut [x] s t ∧ FrameBut [.regs] s t := by
  obtain ⟨t, ht, hx, hframe⟩ := exec_writesReg hexec
  exact ⟨t, ht, hx ▸ hbit, hframe⟩

/-- Settles O12: both write one register, with the byte copied. -/
theorem loadsCopyIntoTheRegister : Obligations.LoadsCopyIntoTheRegister := by
  unfold Obligations.LoadsCopyIntoTheRegister
  intro x y nn s
  exact ⟨exec_writesReg (exec_ldImm x nn s), exec_writesReg (exec_ldReg x y s)⟩

/-- Settles O13: it writes one register, with a sum of bytes, which wraps at 256. -/
theorem addImmediateWrapsWithoutFlag : Obligations.AddImmediateWrapsWithoutFlag := by
  unfold Obligations.AddImmediateWrapsWithoutFlag
  intro x nn s
  obtain ⟨t, ht, hx, hframe⟩ := exec_writesReg (exec_addImm x nn s)
  exact ⟨t, ht, hx ▸ BitVec.toNat_add (s.getV x) nn, hframe⟩

/-- Settles O14: each writes one register, and the library gives every bit of the byte written. -/
theorem logicIsBitwiseWithoutFlag : Obligations.LogicIsBitwiseWithoutFlag := by
  unfold Obligations.LogicIsBitwiseWithoutFlag
  intro x y s
  refine ⟨?or, ?and, ?xor⟩
  case or => exact exec_writesBits (exec_or x y s) fun _ => BitVec.getLsbD_or
  case and => exact exec_writesBits (exec_and x y s) fun _ => BitVec.getLsbD_and
  case xor => exact exec_writesBits (exec_xor x y s) fun _ => BitVec.getLsbD_xor

end Sys2Proof.Machine
end

section
/-! The index writes (42_index_memory.md R171, R172, R174): the values of the operand forms as natural
numbers, what `exec` answers, and the one rule for every instruction that writes `I`. -/

namespace Sys2Proof.Machine

theorem zext16_toNat (nnn : Addr) : (zext16 nnn).toNat = nnn.toNat :=
  BitVec.toNat_setWidth_of_le (by decide)

theorem zextByte_toNat (b : Byte) : (zextByte b).toNat = b.toNat :=
  BitVec.toNat_setWidth_of_le (by decide)

/-- No glyph address reaches 65536: the largest is 75. -/
theorem glyphAddr_toNat (b : Byte) : (glyphAddr b).toNat = b.toNat % 16 * 5 := by
  have hfits : b.toNat % 16 * 5 < 65536 := by omega
  calc (glyphAddr b).toNat
      = (zextByte (b &&& 0x0F)).toNat * 5 % 65536 := BitVec.toNat_mul _ _
    _ = b.toNat % 16 * 5 % 65536 := by rw [zextByte_toNat, lowNibble_toNat]
    _ = b.toNat % 16 * 5 := Nat.mod_eq_of_lt hfits

theorem exec_ldI (nnn : Addr) (s : State) :
    exec (.ldI nnn) s = .next { s with i := zext16 nnn } := rfl

theorem exec_ldF (x : Reg) (s : State) :
    exec (.ldF x) s = .next { s with i := glyphAddr (s.getV x) } := rfl

theorem State.frame_withIndex (s : State) (w : Word) : FrameBut [.index] s { s with i := w } := by
  intro p hp
  cases p with
  | index => exact absurd (List.mem_singleton_self _) hp
  | _ => simp [StatePart.same, State.getV]

/-- An instruction that writes a word of value `n` to `I` changes no other part of the state. -/
theorem exec_writesIndex {i : Instr} {s : State} {w : Word} {n : Nat}
    (hexec : exec i s = .next { s with i := w }) (hvalue : w.toNat = n) :
    ∃ t, exec i s = .next t ∧ t.i.toNat = n ∧ FrameBut [.index] s t :=
  ⟨{ s with i := w }, hexec, hvalue, s.frame_withIndex w⟩

/-- Settles O20: both write `I` and nothing else, with a zero-extended address or a glyph address. -/
theorem indexLoads : Obligations.IndexLoads := by
  unfold Obligations.IndexLoads
  intro nnn x s
  exact ⟨exec_writesIndex (exec_ldI nnn s) (zext16_toNat nnn),
    exec_writesIndex (exec_ldF x s) (glyphAddr_toNat (s.getV x))⟩

end Sys2Proof.Machine
end

section
/-! The display clear (43_display.md R193): what `exec` answers for `CLS`, and that writing the display
leaves every other part of the state as it was. -/

namespace Sys2Proof.Machine

theorem exec_cls (ign : Nibble) (s : State) :
    exec (.cls ign) s = .next { s with fb := Display.clear } := rfl

theorem State.frame_withDisplay (s : State) (fb : Display) :
    FrameBut [.display] s { s with fb := fb } := by
  intro p hp
  cases p with
  | display => exact absurd (List.mem_singleton_self _) hp
  | _ => simp [StatePart.same, State.getV]

/-- Settles O26: whatever the ignored nibble, it writes the cleared display and nothing else. -/
theorem clearTurnsEveryPixelOff : Obligations.ClearTurnsEveryPixelOff := by
  unfold Obligations.ClearTurnsEveryPixelOff
  intro ign s
  exact ⟨{ s with fb := Display.clear }, exec_cls ign s, Display.pixel_clear,
    s.frame_withDisplay Display.clear⟩

end Sys2Proof.Machine
end

section
/-! The keypad and the timers (44_keypad_timers.md R212 to R214, R216, R217): what `exec` answers, the
key a register names, and that writing a timer leaves every other part of the state as it was. -/

namespace Sys2Proof.Machine

/-- Reading the level of the key a register names reads the bit of its low nibble (R210). -/
theorem State.pressed_keyIndex (s : State) (b : Byte) :
    s.pressed (keyIndex b) = s.key.getLsbD (b.toNat % 16) :=
  congrArg s.key.getLsbD (keyIndex_eq b)

theorem exec_skp (x : Reg) (s : State) :
    exec (.skp x) s = .next (s.skipIf (s.pressed (keyIndex (s.getV x)))) := rfl

theorem exec_sknp (x : Reg) (s : State) :
    exec (.sknp x) s = .next (s.skipIf (!s.pressed (keyIndex (s.getV x)))) := rfl

/-- Settles O30: both are skips, on the level of the key named by the low nibble or its negation. -/
theorem keySkipsTestTheLevel : Obligations.KeySkipsTestTheLevel := by
  unfold Obligations.KeySkipsTestTheLevel
  intro x s
  have hlevel := s.pressed_keyIndex (s.getV x)
  refine ⟨exec_skips (exec_skp x s) ?pressed, exec_skips (exec_sknp x s) ?released⟩
  case pressed => rw [hlevel]
  case released => rw [hlevel, Bool.not_eq_true']

theorem exec_ldVxDt (x : Reg) (s : State) : exec (.ldVxDt x) s = .next (s.setV x s.dt) := rfl

theorem exec_ldDtVx (x : Reg) (s : State) :
    exec (.ldDtVx x) s = .next { s with dt := s.getV x } := rfl

theorem exec_ldStVx (x : Reg) (s : State) :
    exec (.ldStVx x) s = .next { s with st := s.getV x } := rfl

theorem State.frame_withDelay (s : State) (b : Byte) : FrameBut [.delay] s { s with dt := b } := by
  intro p hp
  cases p with
  | delay => exact absurd (List.mem_singleton_self _) hp
  | _ => simp [StatePart.same, State.getV]

theorem State.frame_withSound (s : State) (b : Byte) : FrameBut [.sound] s { s with st := b } := by
  intro p hp
  cases p with
  | sound => exact absurd (List.mem_singleton_self _) hp
  | _ => simp [StatePart.same, State.getV]

/-- Settles O31: the read of the delay timer writes one register; each timer write writes its timer
and nothing else. -/
theorem timerTransfers : Obligations.TimerTransfers := by
  unfold Obligations.TimerTransfers
  intro x s
  refine ⟨?readDelay, ?writeDelay, ?writeSound⟩
  case readDelay => exact exec_writesReg (exec_ldVxDt x s)
  case writeDelay =>
    exact ⟨{ s with dt := s.getV x }, exec_ldDtVx x s, rfl, s.frame_withDelay (s.getV x)⟩
  case writeSound =>
    exact ⟨{ s with st := s.getV x }, exec_ldStVx x s, rfl, s.frame_withSound (s.getV x)⟩

end Sys2Proof.Machine
end

section
/-! The setters (45_engine_tick.md R240): what the host's operation answers for each, and the colour
of every pixel under a palette. -/

namespace Sys2Proof.Machine

theorem hostOp_setIpt (s : State) (n : Nat) :
    s.hostOp (.setIpt n) = .next { s with ipt := n } := rfl

theorem hostOp_setPause (s : State) (b : Bool) :
    s.hostOp (.setPause b) = .next { s with pause := b } := rfl

theorem hostOp_setPalette (s : State) {on off : Color} (hne : on ≠ off) :
    s.hostOp (.setPalette on off) = .next { s with colorOn := on, colorOff := off } := by
  change s.setPalette on off = _
  obtain ⟨heq, -⟩ | ⟨-, hset⟩ := s.setPalette_cases on off
  · exact absurd heq hne
  · exact hset

/-- R30: a pixel is shown in one of the two colours, which one depending on the display alone. -/
theorem State.pixelColor_eq (s : State) (x y : Nat) :
    s.pixelColor x y = if s.fb.pixel x y = true then s.colorOn else s.colorOff := rfl

/-- Settles O59: between ticks a step is the host's oldest operation, and each setter's answer writes
its own register. The colours are read through the palette and the display is untouched, so every
pixel changes with it. -/
theorem settersSetTheirRegisterOnly : Obligations.SettersSetTheirRegisterOnly := by
  unfold Obligations.SettersSetTheirRegisterOnly
  intro s rest hidle
  refine ⟨?ipt, ?pause, ?palette⟩
  case ipt =>
    intro n hinbox
    rw [step_host hidle hinbox, hostOp_setIpt]
  case pause =>
    intro b hinbox
    rw [step_host hidle hinbox, hostOp_setPause]
  case palette =>
    intro on off hinbox hne
    refine ⟨{ s with inbox := rest, colorOn := on, colorOff := off }, ?moves, rfl, ?recoloured⟩
    case moves => rw [step_host hidle hinbox, hostOp_setPalette _ hne]
    case recoloured => exact State.pixelColor_eq _

end Sys2Proof.Machine
end

section
/-! The round trip of the encoding (30_encoding.md R91 to R99): decoding a packed word, and packing
the fields of a word, for each format of the table. -/

namespace Sys2Proof

theorem fieldOp_lt (w : Word) : fieldOp w < 16 := Nat.mod_lt _ (by decide)

/-! ## From the instruction to its word and back -/

/-- By format of the table (R92): the selector of the packed word picks the arm, and its fields are
the operands. The sprite height is the one operand that has to be well-formed. -/
theorem decode_encode (i : Instr) (hwf : i.wellFormed = true) : decode (encode i) = .ok i := by
  cases i with
  | jp nnn | call nnn | ldI nnn | jpV0 nnn =>
    simp [encode, decode, fieldOp_packNNN, fieldNNN_packNNN]
  | cls ign | ret ign =>
    simp (disch := omega) [encode, decode, decodeFamily0, fieldOp_packXNN, bits_packXNN,
      rawX_packXNN]
  | seImm x nn | sneImm x nn | ldImm x nn | addImm x nn | rnd x nn =>
    simp (disch := omega) [encode, decode, fieldOp_packXNN, fieldX_packXNN, fieldNN_packXNN]
  | skp x | sknp x =>
    simp (disch := omega) [encode, decode, decodeFamilyE, fieldOp_packXNN, bits_packXNN,
      fieldX_packXNN]
  | ldVxDt x | ldVxK x | ldDtVx x | ldStVx x | addI x | ldF x | ldB x | ldMemVx x | ldVxMem x =>
    simp (disch := omega) [encode, decode, decodeFamilyF, fieldOp_packXNN, bits_packXNN,
      fieldX_packXNN]
  | seReg x y ign | sneReg x y ign =>
    simp (disch := omega) [encode, decode, fieldOp_packXYN, fieldX_packXYN, fieldY_packXYN,
      rawN_packXYN]
  | ldReg x y | or x y | and x y | xor x y | addReg x y | sub x y | shr x y | subn x y | shl x y =>
    simp (disch := omega) [encode, decode, decodeFamily8, fieldOp_packXYN, bits_packXYN,
      fieldX_packXYN, fieldY_packXYN]
  | drw x y n =>
    have hn : n % 16 = n := Nat.mod_eq_of_lt (Nat.lt_succ_of_le (of_decide_eq_true hwf))
    simp (disch := omega) [encode, decode, fieldOp_packXYN, fieldX_packXYN, fieldY_packXYN, fieldN,
      bits_packXYN, hn]

/-- The bytes of a word in memory order decode as the word does (R90, R66). -/
theorem decodeBytes_of_decode {w : Word} {i : Instr} (h : decode w = .ok i) (rest : List Byte) :
    decodeBytes (highByte w :: lowByte w :: rest) = .ok (i, rest) := by
  simp only [decodeBytes, wordOfBytes_bytes, h]

/-- Settles O2: the word by format of the table, and the bytes by the word they make up. -/
theorem decodingAnEncodedInstructionGivesItBack :
    Obligations.DecodingAnEncodedInstructionGivesItBack := by
  unfold Obligations.DecodingAnEncodedInstructionGivesItBack
  intro i hwf
  have hdecode := decode_encode i hwf
  exact ⟨hdecode, decodeBytes_of_decode hdecode⟩

/-! ## From the word to the instruction and back -/

section Repack
variable {w : Word} {op : Nat} (hop : fieldOp w = op)
include hop

/-- A word is the packing of its own fields, in each of the three formats. -/
theorem packNNN_fields : packNNN op (fieldNNN w) = w := by
  have hw := w.isLt
  apply BitVec.eq_of_toNat_eq
  rw [← hop, packNNN_toNat (fieldOp_lt w), fieldOp, bits_15_12, fieldNNN, bits_11_0,
    BitVec.toNat_ofNat]
  omega

theorem packXNN_fields {x nn : Nat} (hx : x = bits w 11 8) (hnn : bits w 7 0 = nn) :
    packXNN op x nn = w := by
  have hw := w.isLt
  apply BitVec.eq_of_toNat_eq
  rw [packXNN, BitVec.toNat_ofNat, ← hop, hx, ← hnn, fieldOp, bits_15_12, bits_11_8, bits_7_0]
  omega

theorem packXYN_fields {x y n : Nat} (hx : x = bits w 11 8) (hy : y = bits w 7 4)
    (hn : bits w 3 0 = n) : packXYN op x y n = w := by
  have hw := w.isLt
  apply BitVec.eq_of_toNat_eq
  rw [packXYN, BitVec.toNat_ofNat, ← hop, hx, hy, ← hn, fieldOp, bits_15_12, bits_11_8, bits_7_4,
    bits_3_0]
  omega

end Repack

theorem fieldX_val (w : Word) : (fieldX w).val = bits w 11 8 := by
  simp only [fieldX, bits_11_8, Fin.val_ofNat]
  omega

theorem fieldY_val (w : Word) : (fieldY w).val = bits w 7 4 := by
  simp only [fieldY, bits_7_4, Fin.val_ofNat]
  omega

theorem rawX_toNat (w : Word) : (rawX w).toNat = bits w 11 8 := by
  simp only [rawX, bits_11_8, BitVec.toNat_ofNat]
  omega

theorem rawN_toNat (w : Word) : (rawN w).toNat = bits w 3 0 := by
  simp only [rawN, bits_3_0, BitVec.toNat_ofNat]
  omega

theorem fieldNN_toNat (w : Word) : (fieldNN w).toNat = bits w 7 0 := by
  simp only [fieldNN, bits_7_0, BitVec.toNat_ofNat]
  omega

/-- What the families with a selector in the low byte, or in the low nibble, decode. -/
theorem decodeFamily0_ok {w : Word} {i : Instr} (hop : fieldOp w = 0x0)
    (h : decodeFamily0 w = .ok i) : i.wellFormed = true ∧ encode i = w := by
  unfold decodeFamily0 at h
  split at h <;> cases h <;> exact ⟨rfl, packXNN_fields hop (rawX_toNat w) ‹_›⟩

theorem decodeFamily8_ok {w : Word} {i : Instr} (hop : fieldOp w = 0x8)
    (h : decodeFamily8 w = .ok i) : i.wellFormed = true ∧ encode i = w := by
  unfold decodeFamily8 at h
  split at h <;> cases h <;>
    exact ⟨rfl, packXYN_fields hop (fieldX_val w) (fieldY_val w) ‹_›⟩

theorem decodeFamilyE_ok {w : Word} {i : Instr} (hop : fieldOp w = 0xE)
    (h : decodeFamilyE w = .ok i) : i.wellFormed = true ∧ encode i = w := by
  unfold decodeFamilyE at h
  split at h <;> cases h <;> exact ⟨rfl, packXNN_fields hop (fieldX_val w) ‹_›⟩

theorem decodeFamilyF_ok {w : Word} {i : Instr} (hop : fieldOp w = 0xF)
    (h : decodeFamilyF w = .ok i) : i.wellFormed = true ∧ encode i = w := by
  unfold decodeFamilyF at h
  split at h <;> cases h <;> exact ⟨rfl, packXNN_fields hop (fieldX_val w) ‹_›⟩

/-- By the primary selector (R94): the operands are the word's own fields, so packing them gives it
back. -/
theorem encode_of_decode {w : Word} {i : Instr} (h : decode w = .ok i) :
    i.wellFormed = true ∧ encode i = w := by
  have hop := fieldOp_lt w
  unfold decode at h
  split at h
  case h_1 hop => exact decodeFamily0_ok hop h
  case h_9 hop => exact decodeFamily8_ok hop h
  case h_15 hop => exact decodeFamilyE_ok hop h
  case h_16 =>
    have hop : fieldOp w = 0xF := by simp only [imp_false] at *; omega
    exact decodeFamilyF_ok hop h
  case h_2 hop | h_3 hop | h_11 hop | h_12 hop => cases h; exact ⟨rfl, packNNN_fields hop⟩
  case h_4 hop | h_5 hop | h_7 hop | h_8 hop | h_13 hop =>
    cases h
    exact ⟨rfl, packXNN_fields hop (fieldX_val w) (fieldNN_toNat w).symm⟩
  case h_6 hop | h_10 hop =>
    cases h
    exact ⟨rfl, packXYN_fields hop (fieldX_val w) (fieldY_val w) (rawN_toNat w).symm⟩
  case h_14 hop =>
    cases h
    have hn : fieldN w < 16 := Nat.mod_lt _ (by decide)
    exact ⟨decide_eq_true (Nat.le_of_lt_succ hn),
      packXYN_fields hop (fieldX_val w) (fieldY_val w) (Nat.mod_eq_of_lt hn).symm⟩

/-- Settles O3: a word is the packing of its own fields, which are the operands. -/
theorem encodingADecodedWordGivesItBack : Obligations.EncodingADecodedWordGivesItBack := by
  unfold Obligations.EncodingADecodedWordGivesItBack
  intro w i h
  exact encode_of_decode h

end Sys2Proof
end

section
/-! The decoder against the table (30_encoding.md R96, R97, R104): the rows as masks, and the words
that have none. -/

namespace Sys2Proof

/-! ## Rows (R96) -/

/-- Every instruction's word lies in its own row. -/
theorem encode_and_mask (i : Instr) : encode i &&& i.row.mask = i.row.pattern := by
  cases i with
  | cls ign => exact Laws.TableRow.cls ign
  | ret ign => exact Laws.TableRow.ret ign
  | jp nnn => exact Laws.TableRow.jp nnn
  | call nnn => exact Laws.TableRow.call nnn
  | seImm x nn => exact Laws.TableRow.seImm x nn
  | sneImm x nn => exact Laws.TableRow.sneImm x nn
  | seReg x y ign => exact Laws.TableRow.seReg x y ign
  | ldImm x nn => exact Laws.TableRow.ldImm x nn
  | addImm x nn => exact Laws.TableRow.addImm x nn
  | ldReg x y => exact Laws.TableRow.ldReg x y
  | or x y => exact Laws.TableRow.or x y
  | and x y => exact Laws.TableRow.and x y
  | xor x y => exact Laws.TableRow.xor x y
  | addReg x y => exact Laws.TableRow.addReg x y
  | sub x y => exact Laws.TableRow.sub x y
  | shr x y => exact Laws.TableRow.shr x y
  | subn x y => exact Laws.TableRow.subn x y
  | shl x y => exact Laws.TableRow.shl x y
  | sneReg x y ign => exact Laws.TableRow.sneReg x y ign
  | ldI nnn => exact Laws.TableRow.ldI nnn
  | jpV0 nnn => exact Laws.TableRow.jpV0 nnn
  | rnd x nn => exact Laws.TableRow.rnd x nn
  | drw x y n => exact Laws.TableRow.drw x y n
  | skp x => exact Laws.TableRow.skp x
  | sknp x => exact Laws.TableRow.sknp x
  | ldVxDt x => exact Laws.TableRow.ldVxDt x
  | ldVxK x => exact Laws.TableRow.ldVxK x
  | ldDtVx x => exact Laws.TableRow.ldDtVx x
  | ldStVx x => exact Laws.TableRow.ldStVx x
  | addI x => exact Laws.TableRow.addI x
  | ldF x => exact Laws.TableRow.ldF x
  | ldB x => exact Laws.TableRow.ldB x
  | ldMemVx x => exact Laws.TableRow.ldMemVx x
  | ldVxMem x => exact Laws.TableRow.ldVxMem x

section Masks
variable {w p : Word}

/-- What a mask that selects a pattern says about the fields the decoder looks at. -/
theorem fields_of_and_F000 (h : w &&& 0xF000#16 = p) : fieldOp w = p.toNat / 4096 := by
  have hw := w.isLt
  rw [← h, and_F000_toNat, fieldOp, bits_15_12]
  omega

theorem fields_of_and_F0FF (h : w &&& 0xF0FF#16 = p) :
    fieldOp w = p.toNat / 4096 ∧ bits w 7 0 = p.toNat % 256 := by
  have hw := w.isLt
  rw [← h, and_F0FF_toNat, fieldOp, bits_15_12, bits_7_0]
  omega

theorem fields_of_and_F00F (h : w &&& 0xF00F#16 = p) :
    fieldOp w = p.toNat / 4096 ∧ bits w 3 0 = p.toNat % 16 := by
  have hw := w.isLt
  rw [← h, and_F00F_toNat, fieldOp, bits_15_12, bits_3_0]
  omega

end Masks

/-- A word in the row of `j` decodes to an instruction of that row: by the three masks of the table,
the mask and the pattern fix the fields that pick the arm. -/
theorem decode_of_row {j : Instr} {w : Word} (h : w &&& j.row.mask = j.row.pattern) :
    ∃ i, decode w = .ok i ∧ i.row = j.row := by
  cases j with
  | jp | call | seImm | sneImm | seReg | ldImm | addImm | sneReg | ldI | jpV0 | rnd | drw =>
    have hop := fields_of_and_F000 h
    simp [Instr.row] at hop
    simp [decode, hop, Instr.row]
  | ldReg | or | and | xor | addReg | sub | shr | subn | shl =>
    obtain ⟨hop, hsel⟩ := fields_of_and_F00F h
    simp [Instr.row] at hop hsel
    simp [decode, decodeFamily8, hop, hsel, Instr.row]
  | cls | ret | skp | sknp | ldVxDt | ldVxK | ldDtVx | ldStVx | addI
  | ldF | ldB | ldMemVx | ldVxMem =>
    obtain ⟨hop, hsel⟩ := fields_of_and_F0FF h
    simp [Instr.row] at hop hsel
    simp [decode, decodeFamily0, decodeFamilyE, decodeFamilyF, hop, hsel, Instr.row]

/-- Settles O4: a decoded word is its instruction's word, which lies in the instruction's row; and
the row of a word picks the arm. -/
theorem decoderSelectsTheTableRow : Obligations.DecoderSelectsTheTableRow := by
  unfold Obligations.DecoderSelectsTheTableRow
  intro j w
  refine ⟨?_, decode_of_row⟩
  rintro ⟨i, hdecode, hrow⟩
  obtain ⟨-, rfl⟩ := encode_of_decode hdecode
  exact hrow ▸ encode_and_mask i

/-! ## Words without a row (R97) -/

section Errors
variable {w : Word} {e : DecodeError}

theorem decodeFamily0_error : decodeFamily0 w = .error e ↔
    e = .invalidFamily0 ∧ bits w 7 0 ≠ 0xE0 ∧ bits w 7 0 ≠ 0xEE := by
  unfold decodeFamily0
  split <;> simp_all [eq_comm (b := e)]

theorem decodeFamily8_error : decodeFamily8 w = .error e ↔
    e = .invalidFamily8 ∧ bits w 3 0 ∈ [8, 9, 0xA, 0xB, 0xC, 0xD, 0xF] := by
  have hlt : bits w 3 0 < 16 := Nat.mod_lt _ (by decide)
  unfold decodeFamily8
  split <;> simp_all [eq_comm (b := e)]
  exact fun _ => by omega

theorem decodeFamilyE_error : decodeFamilyE w = .error e ↔
    e = .invalidFamilyE ∧ bits w 7 0 ≠ 0x9E ∧ bits w 7 0 ≠ 0xA1 := by
  unfold decodeFamilyE
  split <;> simp_all [eq_comm (b := e)]

theorem decodeFamilyF_error : decodeFamilyF w = .error e ↔
    e = .invalidFamilyF ∧
      bits w 7 0 ∉ [0x07, 0x0A, 0x15, 0x18, 0x1E, 0x29, 0x33, 0x55, 0x65] := by
  unfold decodeFamilyF
  split <;> simp_all [eq_comm (b := e)]

/-- Only the four families reject a word. -/
theorem decode_error : decode w = .error e ↔
    (fieldOp w = 0x0 ∧ decodeFamily0 w = .error e) ∨
    (fieldOp w = 0x8 ∧ decodeFamily8 w = .error e) ∨
    (fieldOp w = 0xE ∧ decodeFamilyE w = .error e) ∨
    (fieldOp w = 0xF ∧ decodeFamilyF w = .error e) := by
  have hlt := fieldOp_lt w
  unfold decode
  split
  case h_16 =>
    have hop : fieldOp w = 0xF := by simp only [imp_false] at *; omega
    simp [hop]
  all_goals simp [*]

end Errors

/-- Settles O5: each family rejects with its own name, so a name tells the family. -/
theorem invalidWordsByFamily : Obligations.InvalidWordsByFamily := by
  unfold Obligations.InvalidWordsByFamily
  intro w
  simp [decode_error, decodeFamily0_error, decodeFamily8_error, decodeFamilyE_error,
    decodeFamilyF_error, fieldOp]

/-- Settles O1: the decoder computes on each of the words. -/
theorem representativeWordsDecode : Obligations.RepresentativeWordsDecode := by
  unfold Obligations.RepresentativeWordsDecode
  decide

end Sys2Proof
end

section
/-! Control transfer (40_control_flow.md R121 to R123, R126, R127, R129): what `exec` answers, the
one rule for every instruction that latches a fault, and the one for every instruction that writes
PC. -/

namespace Sys2Proof.Machine

/-- An instruction that latches a fault leaves the record of R260 and nothing else (R268). -/
theorem exec_latches {i : Instr} {s : State} {c : FaultCode}
    (hexec : exec i s = .next (s.raiseIn i c)) :
    ∃ t, exec i s = .next t ∧ Latched t c (s.pc - 2) (encode i) ∧ FrameBut [.fault] s t :=
  ⟨s.raiseIn i c, hexec, s.latched_raise c _ _, s.frame_raise c _ _⟩

theorem State.frame_withPc (s : State) (w : Word) : FrameBut [.pc] s { s with pc := w } := by
  intro p hp
  cases p with
  | pc => exact absurd (List.mem_singleton_self _) hp
  | _ => simp [StatePart.same, State.getV]

theorem State.frame_withStackAndPc (s : State) (sp : Fin 16) (stack : Vector Word 16) (w : Word) :
    FrameBut [.pc, .stack] s { s with sp := sp, stack := stack, pc := w } := by
  intro p hp
  cases p with
  | pc | stack => simp at hp
  | _ => simp [StatePart.same, State.getV]

/-! ## Call and return (R121, R122) -/

theorem exec_ret_empty (ign : Nibble) {s : State} (h : s.sp = 0) :
    exec (.ret ign) s = .next (s.raiseIn (.ret ign) .stackUnderflow) := if_pos h

theorem exec_ret (ign : Nibble) {s : State} (h : s.sp ≠ 0) :
    exec (.ret ign) s = .next { s with sp := s.sp - 1, pc := s.stack[s.sp - 1] } := if_neg h

theorem exec_call_full (nnn : Addr) {s : State} (h : s.sp = 15) :
    exec (.call nnn) s = .next (s.raiseIn (.call nnn) .stackOverflow) := if_pos h

theorem exec_call (nnn : Addr) {s : State} (h : s.sp ≠ 15) :
    exec (.call nnn) s =
      .next { s with stack := s.stack.set s.sp s.pc, sp := s.sp + 1, pc := zext16 nnn } := if_neg h

theorem sp_sub_one {sp : Fin 16} (h : sp ≠ 0) : (sp - 1).val + 1 = sp.val := by
  have hpos : sp.val ≠ 0 := fun e => h (Fin.ext e)
  rw [Fin.val_sub_one_of_ne_zero h]
  omega

theorem sp_add_one {sp : Fin 16} (h : sp ≠ 15) : (sp + 1).val = sp.val + 1 :=
  Fin.val_add_one_of_lt (Fin.lt_last_iff_ne_last.2 h)

/-- A stack write: that entry and no other. -/
theorem stack_set_same (stack : Vector Word 16) (sp : Fin 16) (w : Word) :
    (stack.set sp w)[sp] = w := by simp

theorem stack_set_other (stack : Vector Word 16) {sp k : Fin 16} (w : Word) (h : k ≠ sp) :
    (stack.set sp w)[k] = stack[k] := by
  have hne : sp.val ≠ k.val := fun e => h (Fin.ext e.symm)
  simp [hne]

/-- Settles O6: by whether the stack is empty. -/
theorem returnPopsOrUnderflows : Obligations.ReturnPopsOrUnderflows := by
  unfold Obligations.ReturnPopsOrUnderflows
  intro ign s
  refine ⟨fun hsp => ?pops, fun hsp => exec_latches (exec_ret_empty ign hsp)⟩
  case pops =>
    exact ⟨_, exec_ret ign hsp, sp_sub_one hsp, rfl, fun _ => rfl,
      s.frame_withStackAndPc (s.sp - 1) s.stack s.stack[s.sp - 1]⟩

/-- Settles O7: by whether the stack is full. -/
theorem callPushesOrOverflows : Obligations.CallPushesOrOverflows := by
  unfold Obligations.CallPushesOrOverflows
  intro nnn s
  refine ⟨fun hsp => ?pushes, fun hsp => exec_latches (exec_call_full nnn hsp)⟩
  case pushes =>
    exact ⟨_, exec_call nnn hsp, sp_add_one hsp, stack_set_same s.stack s.sp s.pc,
      fun k hk => stack_set_other s.stack s.pc hk, zext16_toNat nnn,
      s.frame_withStackAndPc (s.sp + 1) (s.stack.set s.sp s.pc) (zext16 nnn)⟩

/-- Settles O11: the call leaves a stack that is not empty, with the advanced PC on top. -/
theorem returnUndoesCall : Obligations.ReturnUndoesCall := by
  unfold Obligations.ReturnUndoesCall
  intro nnn ign s hsp
  have hback : s.sp + 1 - 1 = s.sp := add_sub_cancel_right s.sp 1
  have hnonempty : s.sp + 1 ≠ 0 := by
    intro h
    have := sp_add_one hsp
    simp [h] at this
  refine ⟨_, _, exec_call nnn hsp, exec_ret ign hnonempty, ?pc, hback, ?entries, ?frame⟩
  case pc => simp [hback]
  case entries => exact fun k hk => stack_set_other s.stack s.pc hk
  case frame =>
    simp only [hback, stack_set_same]
    intro p hp
    cases p with
    | stack => exact absurd (List.mem_singleton_self _) hp
    | _ => simp [StatePart.same, State.getV]

/-! ## Jumps and skips (R123, R126, R127, R129) -/

theorem exec_jp (nnn : Addr) (s : State) :
    exec (.jp nnn) s = .next { s with pc := zext16 nnn } := rfl

theorem exec_jpV0 (nnn : Addr) (s : State) :
    exec (.jpV0 nnn) s = .next { s with pc := offsetTarget s nnn } := rfl

theorem exec_seReg (x y : Reg) (ign : Nibble) (s : State) :
    exec (.seReg x y ign) s = .next (s.skipIf (s.getV x == s.getV y)) := rfl

theorem exec_sneReg (x y : Reg) (ign : Nibble) (s : State) :
    exec (.sneReg x y ign) s = .next (s.skipIf (s.getV x != s.getV y)) := rfl

/-- The largest sum is 0x10FE, so nothing is cut off (log 32). -/
theorem offsetTarget_toNat (s : State) (nnn : Addr) :
    (offsetTarget s nnn).toNat = nnn.toNat + (s.getV 0).toNat := by
  have hnnn := nnn.isLt
  have hv0 := (s.getV 0).isLt
  rw [offsetTarget, BitVec.toNat_add, zext16_toNat, zextByte_toNat]
  omega

/-- An instruction that writes a word of value `n` to PC changes no other part of the state. -/
theorem exec_writesPc {i : Instr} {s : State} {w : Word} {n : Nat}
    (hexec : exec i s = .next { s with pc := w }) (hvalue : w.toNat = n) :
    ∃ t, exec i s = .next t ∧ t.pc.toNat = n ∧ FrameBut [.pc] s t :=
  ⟨{ s with pc := w }, hexec, hvalue, s.frame_withPc w⟩

/-- Settles O8: both write PC, with a zero-extended address or the offset sum. -/
theorem jumpsSetThePc : Obligations.JumpsSetThePc := by
  unfold Obligations.JumpsSetThePc
  intro nnn s
  exact ⟨exec_writesPc (exec_jp nnn s) (zext16_toNat nnn),
    exec_writesPc (exec_jpV0 nnn s) (offsetTarget_toNat s nnn)⟩

/-- Settles O10: both are skips, on a test that decides equality of the two registers. -/
theorem skipsCompareTwoRegisters : Obligations.SkipsCompareTwoRegisters := by
  unfold Obligations.SkipsCompareTwoRegisters
  intro x y ign s
  refine ⟨?equal, ?unequal⟩
  case equal =>
    obtain ⟨t, ht, hpc, hframe⟩ := exec_skips (exec_seReg x y ign s) beq_iff_eq
    exact ⟨t, ht, hpc, fun hxy => by rw [hpc, hxy, if_pos rfl], hframe⟩
  case unequal =>
    obtain ⟨t, ht, hpc, hframe⟩ := exec_skips (exec_sneReg x y ign s) bne_iff_ne
    exact ⟨t, ht, hpc, fun hxy => by rw [hpc, hxy, if_neg (not_not_intro rfl)], hframe⟩

end Sys2Proof.Machine
end

section
/-! The flag-writing operations and the random byte (41_alu.md R141, R149 to R154): what `exec`
answers, the values of flags and results as numbers, and the rule for a flag and then a result. -/

namespace Sys2Proof.Machine

theorem exec_addReg (x y : Reg) (s : State) : exec (.addReg x y) s =
    .next (s.setFlagThenResult x (carryFlag (s.getV x) (s.getV y)) (s.getV x + s.getV y)) := rfl

theorem exec_sub (x y : Reg) (s : State) : exec (.sub x y) s =
    .next (s.setFlagThenResult x (noBorrowFlag (s.getV x) (s.getV y)) (s.getV x - s.getV y)) := rfl

theorem exec_subn (x y : Reg) (s : State) : exec (.subn x y) s =
    .next (s.setFlagThenResult x (noBorrowFlag (s.getV y) (s.getV x)) (s.getV y - s.getV x)) := rfl

theorem exec_shr (x y : Reg) (s : State) : exec (.shr x y) s =
    .next (s.setFlagThenResult x (shiftedOutRight (s.getV x)) (s.getV x >>> 1)) := rfl

theorem exec_shl (x y : Reg) (s : State) : exec (.shl x y) s =
    .next (s.setFlagThenResult x (shiftedOutLeft (s.getV x)) (s.getV x <<< 1)) := rfl

theorem exec_rnd (x : Reg) (nn : Byte) (s : State) : exec (.rnd x nn) s =
    .next { s.setV x (Config.freeDraw s.draws &&& nn) with draws := s.draws + 1 } := rfl

/-! ## Flags and results as numbers -/

section Values
variable (a b : Byte)

theorem carryFlag_toNat : (carryFlag a b).toNat = if 255 < a.toNat + b.toNat then 1 else 0 := by
  rw [carryFlag, flagByte_toNat]
  simp only [decide_eq_true_eq]

theorem noBorrowFlag_toNat : (noBorrowFlag a b).toNat = if b.toNat ≤ a.toNat then 1 else 0 := by
  rw [noBorrowFlag, flagByte_toNat]
  simp only [decide_eq_true_eq]

theorem shiftedOutRight_toNat : (shiftedOutRight a).toNat = a.toNat % 2 := by
  revert a
  decide

theorem shiftedOutLeft_toNat : (shiftedOutLeft a).toNat = a.toNat / 128 := by
  revert a
  decide

theorem byteAdd_toNat : (a + b).toNat = (a.toNat + b.toNat) % 256 := BitVec.toNat_add a b

/-- Subtraction of bytes is subtraction of integers modulo 256 (R140). -/
theorem byteSub_toNat : ((a - b).toNat : Int) = ((a.toNat : Int) - b.toNat) % 256 := by
  have ha := a.isLt
  have hb := b.isLt
  rw [BitVec.toNat_sub]
  omega

theorem byteShr_toNat : (a >>> 1).toNat = a.toNat / 2 := by
  rw [BitVec.toNat_ushiftRight, Nat.shiftRight_eq_div_pow, Nat.pow_one]

theorem byteShl_toNat : (a <<< 1).toNat = a.toNat * 2 % 256 := by
  rw [BitVec.toNat_shiftLeft, Nat.shiftLeft_eq, Nat.pow_one]

end Values

/-! ## Flag, then result (R141) -/

section FlagThenResult
variable {i : Instr} {s : State} {x : Reg} {f b : Byte}

/-- Into a register other than VF: the result there, the flag in VF, nothing else. -/
theorem exec_writesFlagAndResult (hexec : exec i s = .next (s.setFlagThenResult x f b))
    (hx : x ≠ vf) : ∃ t, exec i s = .next t ∧ t.getV x = b ∧ t.getV vf = f ∧
      RegsBut [x, vf] s t ∧ FrameBut [.regs] s t := by
  refine ⟨_, hexec, ?_, ?_, s.regsBut_setFlagThenResult x f b, s.frame_setFlagThenResult x f b⟩
  · rw [State.getV_setFlagThenResult, if_pos rfl]
  · rw [State.getV_setFlagThenResult, if_neg hx.symm, if_pos rfl]

/-- Into VF: the result remains, and no other register changes. -/
theorem exec_writesResultToVf (hexec : exec i s = .next (s.setFlagThenResult vf f b)) :
    ∃ t, exec i s = .next t ∧ t.getV vf = b ∧ RegsBut [vf] s t ∧ FrameBut [.regs] s t := by
  refine ⟨_, hexec, ?_, fun r hr => ?_, s.frame_setFlagThenResult vf f b⟩
  · rw [State.getV_setFlagThenResult, if_pos rfl]
  · have hr : r ≠ vf := by simpa using hr
    rw [State.getV_setFlagThenResult, if_neg hr, if_neg hr]

end FlagThenResult

/-- Settles O15: a flag and then a result, the carry and the sum. -/
theorem addSetsCarry : Obligations.AddSetsCarry := by
  unfold Obligations.AddSetsCarry
  intro x y s hx
  obtain ⟨t, ht, hres, hflag, hframe⟩ := exec_writesFlagAndResult (exec_addReg x y s) hx
  exact ⟨t, ht, hres ▸ byteAdd_toNat _ _, hflag ▸ carryFlag_toNat _ _, hframe⟩

/-- Settles O16: both are a flag and then a result, with the operands exchanged. -/
theorem subtractionsSetNoBorrow : Obligations.SubtractionsSetNoBorrow := by
  unfold Obligations.SubtractionsSetNoBorrow
  intro x y s hx
  refine ⟨?sub, ?subn⟩
  case sub =>
    obtain ⟨t, ht, hres, hflag, hframe⟩ := exec_writesFlagAndResult (exec_sub x y s) hx
    exact ⟨t, ht, hres ▸ byteSub_toNat _ _, hflag ▸ noBorrowFlag_toNat _ _, hframe⟩
  case subn =>
    obtain ⟨t, ht, hres, hflag, hframe⟩ := exec_writesFlagAndResult (exec_subn x y s) hx
    exact ⟨t, ht, hres ▸ byteSub_toNat _ _, hflag ▸ noBorrowFlag_toNat _ _, hframe⟩

/-- Settles O17: both are a flag and then a result, made from `V[X]` alone. -/
theorem shiftsMoveOneBitIntoTheFlag : Obligations.ShiftsMoveOneBitIntoTheFlag := by
  unfold Obligations.ShiftsMoveOneBitIntoTheFlag
  intro x y s hx
  refine ⟨?shr, ?shl⟩
  case shr =>
    obtain ⟨t, ht, hres, hflag, hframe⟩ := exec_writesFlagAndResult (exec_shr x y s) hx
    exact ⟨t, ht, hres ▸ byteShr_toNat _, hflag ▸ shiftedOutRight_toNat _, hframe⟩
  case shl =>
    obtain ⟨t, ht, hres, hflag, hframe⟩ := exec_writesFlagAndResult (exec_shl x y s) hx
    exact ⟨t, ht, hres ▸ byteShl_toNat _, hflag ▸ shiftedOutLeft_toNat _, hframe⟩

/-- Settles O18: in all five the result is the second of the two writes to VF. -/
theorem resultRemainsWhenTheDestinationIsVf : Obligations.ResultRemainsWhenTheDestinationIsVf := by
  unfold Obligations.ResultRemainsWhenTheDestinationIsVf
  intro y s
  refine ⟨?add, ?sub, ?subn, ?shr, ?shl⟩
  case add =>
    obtain ⟨t, ht, hres, hframe⟩ := exec_writesResultToVf (exec_addReg vf y s)
    exact ⟨t, ht, hres ▸ byteAdd_toNat _ _, hframe⟩
  case sub =>
    obtain ⟨t, ht, hres, hframe⟩ := exec_writesResultToVf (exec_sub vf y s)
    exact ⟨t, ht, hres ▸ byteSub_toNat _ _, hframe⟩
  case subn =>
    obtain ⟨t, ht, hres, hframe⟩ := exec_writesResultToVf (exec_subn vf y s)
    exact ⟨t, ht, hres ▸ byteSub_toNat _ _, hframe⟩
  case shr =>
    obtain ⟨t, ht, hres, hframe⟩ := exec_writesResultToVf (exec_shr vf y s)
    exact ⟨t, ht, hres ▸ byteShr_toNat _, hframe⟩
  case shl =>
    obtain ⟨t, ht, hres, hframe⟩ := exec_writesResultToVf (exec_shl vf y s)
    exact ⟨t, ht, hres ▸ byteShl_toNat _, hframe⟩

/-- Counting a draw changes nothing beyond what the register write does. -/
theorem State.frame_setV_withDraws (s : State) (x : Reg) (b : Byte) (n : Nat) :
    FrameBut [.regs, .draws] s { s.setV x b with draws := n } := by
  intro p hp
  cases p with
  | regs | draws => simp at hp
  | _ => simp [StatePart.same]

/-- Settles O19: bit by bit, a masked byte has no bit its mask has not. -/
theorem randomByteIsMasked : Obligations.RandomByteIsMasked := by
  unfold Obligations.RandomByteIsMasked
  intro x nn s
  refine ⟨_, exec_rnd x nn s, fun k => ?bits, rfl, s.regsBut_setV x _, s.frame_setV_withDraws x _ _⟩
  case bits =>
    change ((s.setV x (Config.freeDraw s.draws &&& nn)).getV x).getLsbD k = _
    rw [State.getV_setV_same, BitVec.getLsbD_and]

end Sys2Proof.Machine
end

section
/-! Index register and memory (42_index_memory.md R173, R175 to R177; 60_exceptions.md R265): what
`exec` answers, and the bytes and registers after a transfer. -/

namespace Sys2Proof.Machine

theorem exec_addI (x : Reg) (s : State) :
    exec (.addI x) s = .next { s with i := s.i + zextByte (s.getV x) } := rfl

/-- Settles O21: it writes `I` and nothing else, with a sum of words, which wraps at 65536. -/
theorem addToIndexWrapsWithoutFlag : Obligations.AddToIndexWrapsWithoutFlag := by
  unfold Obligations.AddToIndexWrapsWithoutFlag
  intro x s
  have hsum : (s.i + zextByte (s.getV x)).toNat = (s.i.toNat + (s.getV x).toNat) % 65536 := by
    rw [BitVec.toNat_add, zextByte_toNat]
  exact exec_writesIndex (exec_addI x s) hsum

theorem State.frame_withMemory (s : State) {m : Memory} (hfont : m.font = s.mem.font) :
    FrameBut [.memory] s { s with mem := m } := by
  intro p hp
  cases p with
  | memory => exact absurd (List.mem_singleton_self _) hp
  | _ => simp [StatePart.same, State.getV, hfont]

/-! ## The decimal digits (R175) -/

theorem outOfRange_digits (s : State) :
    outOfRange (effectiveAddr s 0) 3 ↔ 4096 ≤ s.i.toNat + 2 := by
  simp only [outOfRange, effectiveAddr]
  omega

theorem exec_ldB_range (x : Reg) {s : State} (h : 4096 ≤ s.i.toNat + 2) :
    exec (.ldB x) s = .next (s.raiseIn (.ldB x) .memRangeData) := if_pos ((outOfRange_digits s).2 h)

theorem exec_ldB (x : Reg) {s : State} (h : s.i.toNat + 2 < 4096) : exec (.ldB x) s =
    .next { s with mem := s.mem.writeBytes (effectiveAddr s 0) (bcdDigits (s.getV x)) } :=
  if_neg fun hout => absurd ((outOfRange_digits s).1 hout) (Nat.not_le_of_lt h)

/-- The digits as numbers, hundreds first. -/
theorem bcdDigits_toNat (b : Byte) : ((bcdDigits b).getD 0 0).toNat = b.toNat / 100 ∧
    ((bcdDigits b).getD 1 0).toNat = b.toNat / 10 % 10 ∧
    ((bcdDigits b).getD 2 0).toNat = b.toNat % 10 := by
  have hb := b.isLt
  simp only [bcdDigits, List.getD_cons_zero, List.getD_cons_succ, BitVec.toNat_ofNat]
  omega

section StoredDigits
variable {s : State} (hc : s.canonical) (h : s.i.toNat + 2 < 4096) (b : Byte)
include hc h

/-- After the three stores each digit is at its address, and every other byte as before. -/
theorem read_storedDigit {k : Nat} (hk : k < 3) :
    (s.mem.writeBytes (effectiveAddr s 0) (bcdDigits b)).read (effectiveAddr s k) =
      (bcdDigits b).getD k 0 := by
  have hlen : (bcdDigits b).length = 3 := rfl
  rw [Memory.read_writeBytes hc (by rw [effectiveAddr, hlen]; omega), hlen,
    if_pos (by simp only [effectiveAddr]; omega), effectiveAddr, effectiveAddr,
    Nat.add_sub_add_left,
    Nat.sub_zero]

theorem read_storedDigits_other {a : Nat} (ha : ∀ k, k < 3 → a ≠ effectiveAddr s k) :
    (s.mem.writeBytes (effectiveAddr s 0) (bcdDigits b)).read a = s.mem.read a := by
  have hlen : (bcdDigits b).length = 3 := rfl
  have hout : ¬ (effectiveAddr s 0 ≤ a ∧ a < effectiveAddr s 0 + 3) := by
    rintro ⟨hle, hlt⟩
    refine ha (a - effectiveAddr s 0) (by omega) ?_
    simp only [effectiveAddr] at hle ⊢
    omega
  rw [Memory.read_writeBytes hc (by rw [effectiveAddr, hlen]; omega), hlen, if_neg hout]

end StoredDigits

/-- Settles O22: by whether the last of the three addresses is in memory. -/
theorem bcdStoresThreeDigits : Obligations.BcdStoresThreeDigits := by
  unfold Obligations.BcdStoresThreeDigits
  intro x s hc
  refine ⟨fun h => ?stored, fun h => exec_latches (exec_ldB_range x h)⟩
  case stored =>
    have hread {k : Nat} (hk : k < 3) := read_storedDigit hc h (s.getV x) hk
    obtain ⟨hhundreds, htens, hones⟩ := bcdDigits_toNat (s.getV x)
    exact ⟨_, exec_ldB x h, hread (k := 0) (by decide) ▸ hhundreds,
      hread (k := 1) (by decide) ▸ htens,
      hread (k := 2) (by decide) ▸ hones, fun a ha => read_storedDigits_other hc h (s.getV x) ha,
      s.frame_withMemory (Memory.writeBytes_font _ _ _)⟩

/-! ## The register dump and load (R176, R177) -/

theorem exec_ldMemVx (x : Reg) (s : State) : exec (.ldMemVx x) s = .next (s.dump x) := rfl

theorem exec_ldVxMem (x : Reg) (s : State) : exec (.ldVxMem x) s = .next (s.load x) := rfl

/-- Each register up to X is at its address after the dump. -/
theorem State.read_dump {s : State} (hc : s.canonical) {x k : Reg} (hk : k ≤ x) :
    (s.dump x).mem.read (wrapAddr s k) = s.getV k := by
  have hlt : k.val < x.val + 1 := Nat.lt_succ_of_le hk
  obtain ⟨-, hstored, -⟩ := State.dump_registers hc (x + 1) (by omega)
  have hkey := hstored k hlt
  rwa [show Fin.ofNat 16 k.val = k from Fin.ext (Nat.mod_eq_of_lt k.isLt)] at hkey

theorem State.read_dump_other {s : State} (hc : s.canonical) {x : Reg} {a : Nat}
    (ha : ∀ k : Reg, k ≤ x → a ≠ wrapAddr s k) : (s.dump x).mem.read a = s.mem.read a := by
  obtain ⟨-, -, hothers⟩ := State.dump_registers hc (x + 1) (by omega)
  exact hothers a fun k hk => ha ⟨k, by omega⟩ (Nat.le_of_lt_succ hk)

/-- Settles O23: the addresses of a dump are distinct, so no store undoes another. -/
theorem dumpStoresRegistersWrapping : Obligations.DumpStoresRegistersWrapping := by
  unfold Obligations.DumpStoresRegistersWrapping
  intro x s hc
  exact ⟨s.dump x, exec_ldMemVx x s, fun k hk => State.read_dump hc hk,
    fun a ha => State.read_dump_other hc ha, s.frame_dump x⟩

/-- Settles O24: register by register. -/
theorem loadReadsRegistersWrapping : Obligations.LoadReadsRegistersWrapping := by
  unfold Obligations.LoadReadsRegistersWrapping
  intro x s
  refine ⟨s.load x, exec_ldVxMem x s, fun k hk => ?_, fun r hr => ?_, s.frame_load x⟩
  · rw [State.getV_load, if_pos hk]
  · rw [State.getV_load, if_neg (Fin.not_le.2 hr)]

/-- Settles O25: the dump leaves `I`, so the load reads where the dump wrote. -/
theorem loadInvertsDump : Obligations.LoadInvertsDump := by
  unfold Obligations.LoadInvertsDump
  intro x s u hc
  refine ⟨s.dump x, exec_ldMemVx x s, fun hi hmem => ⟨u.load x, exec_ldVxMem x u, fun k hk => ?_⟩⟩
  have hindex : (s.dump x).i = s.i := s.frame_dump x .index (by decide)
  have haddr : wrapAddr u k = wrapAddr s k := by rw [wrapAddr, effectiveAddr, hi, hindex]; rfl
  rw [State.getV_load, if_pos hk, hmem, haddr, State.read_dump hc hk]

end Sys2Proof.Machine
end

section
/-! Drawing a sprite (43_display.md R190 to R195; 60_exceptions.md R265): what `exec` answers, the
bit a sprite has for each pixel, and the display and the collision after drawing. -/

namespace Sys2Proof.Machine

theorem outOfRange_data (s : State) (n : Nat) :
    outOfRange (effectiveAddr s 0) n ↔ 1 ≤ n ∧ 4096 ≤ s.i.toNat + n - 1 := Iff.rfl

theorem exec_drw_range (x y : Reg) {n : Nat} {s : State} (h : outOfRange (effectiveAddr s 0) n) :
    exec (.drw x y n) s = .next (s.raiseIn (.drw x y n) .memRangeData) := if_pos h

theorem exec_drw (x y : Reg) {n : Nat} {s : State} (h : ¬ outOfRange (effectiveAddr s 0) n) :
    exec (.drw x y n) s = .next ({ s with fb := (s.composite x y n).1 }.setV vf
      (collisionFlag (s.composite x y n).2)) := if_neg h

/-- Settles O28: the two tests are those of the two instructions, and a dump or load leaves the
fault record as it leaves every part it is not named for. -/
theorem dataRangeFaults : Obligations.DataRangeFaults := by
  unfold Obligations.DataRangeFaults
  intro x y n s
  exact ⟨fun h => exec_latches (exec_drw_range x y ((outOfRange_data s n).2 h)),
    fun h => exec_latches (exec_ldB_range x h),
    ⟨s.dump x, exec_ldMemVx x s, s.frame_dump x .fault (by decide)⟩,
    ⟨s.load x, exec_ldVxMem x s, s.frame_load x .fault (by decide)⟩⟩

/-! ## The bit of a sprite at a pixel -/

/-- Whether the sprite of `n` rows at `I` has a 1 bit for the pixel. -/
def State.spriteAt (s : State) (x y : Reg) (n px py : Nat) : Bool :=
  spriteBit (originX (s.getV x)) (originY (s.getV y)) (s.mem.readBytes (effectiveAddr s 0) n) px py

theorem Memory.readBytes_length (m : Memory) (base len : Nat) :
    (m.readBytes base len).length = len := by
  simp [Memory.readBytes]

theorem Memory.readBytes_getD (m : Memory) (base : Nat) {len k : Nat} (hk : k < len) :
    (m.readBytes base len).getD k 0 = m.read (base + k) := by
  simp [Memory.readBytes, List.getD, hk]

/-- It has one exactly for the pixels on the grid that the sprite covers (R190, R192). -/
theorem State.spriteAt_iff (s : State) (x y : Reg) (n px py : Nat) :
    s.spriteAt x y n px py = true ↔ px < 64 ∧ py < 32 ∧ SpriteCovers s x y n px py := by
  rw [State.spriteAt, spriteBit, Bool.and_eq_true, decide_eq_true_eq, Memory.readBytes_length,
    originX,
    originY]
  constructor
  · rintro ⟨⟨hpx, hpy, hy, hyn, hx, hx8⟩, hbit⟩
    rw [Memory.readBytes_getD _ _ (by omega)] at hbit
    exact ⟨hpx, hpy, py - (s.getV y).toNat % 32, px - (s.getV x).toNat % 64, by omega, by omega,
      by omega, by omega, hbit⟩
  · rintro ⟨hpx, hpy, r, c, hr, hc, rfl, rfl, hbit⟩
    refine ⟨by omega, ?_⟩
    rw [Nat.add_sub_cancel_left, Nat.add_sub_cancel_left, Memory.readBytes_getD _ _ hr]
    exact hbit

/-- Every pixel after drawing is as before, inverted where the sprite has a 1 bit (R191). -/
theorem State.pixel_composite (s : State) (x y : Reg) (n px py : Nat) :
    (s.composite x y n).1.pixel px py = (s.fb.pixel px py ^^ s.spriteAt x y n px py) :=
  (Display.drawRows_spec _ _ _ _).1 px py

/-- There is a collision exactly when a 1 bit meets a pixel that is on (R194). -/
theorem State.collision_composite (s : State) (x y : Reg) (n : Nat) : (s.composite x y n).2 = true ↔
    ∃ px py, s.spriteAt x y n px py = true ∧ s.fb.pixel px py = true :=
  ((Display.drawRows_spec _ _ _ _).2).trans (or_iff_right Bool.false_ne_true)

theorem flagByte_eq_one_iff (b : Bool) : flagByte b = 1 ↔ b = true := by cases b <;> decide

theorem flagByte_eq_one_or_zero (b : Bool) : flagByte b = 1 ∨ flagByte b = 0 :=
  by cases b <;> decide

theorem State.frame_drawn (s : State) (fb : Display) (b : Byte) :
    FrameBut [.regs, .display] s ({ s with fb := fb }.setV vf b) := by
  intro p hp
  cases p with
  | regs | display => simp at hp
  | _ => simp [StatePart.same]

theorem State.regsBut_drawn (s : State) (fb : Display) (b : Byte) :
    RegsBut [vf] s ({ s with fb := fb }.setV vf b) := State.regsBut_setV { s with fb := fb } vf b

/-- Settles O27: the pixels and the collision by the sprite's bits, the bits by `SpriteCovers`. -/
theorem drawTogglesTheCoveredPixels : Obligations.DrawTogglesTheCoveredPixels := by
  unfold Obligations.DrawTogglesTheCoveredPixels
  intro x y n s hrange
  refine ⟨_, exec_drw x y hrange, fun px py hpx hpy => ?pixels, ?flag, ?collision,
    s.regsBut_drawn _ _, s.frame_drawn _ _⟩
  case pixels =>
    have hbit : s.spriteAt x y n px py = true ↔ SpriteCovers s x y n px py := by
      simp [State.spriteAt_iff, hpx, hpy]
    constructor
    · intro hcovers
      simp [State.pixel_composite, hbit.2 hcovers]
    · intro hclear
      simp [State.pixel_composite, Bool.eq_false_of_not_eq_true (mt hbit.1 hclear)]
  case flag =>
    rw [State.getV_setV_same]
    exact flagByte_eq_one_or_zero _
  case collision =>
    rw [State.getV_setV_same, collisionFlag, flagByte_eq_one_iff, State.collision_composite]
    simp only [State.spriteAt_iff, and_assoc]

/-! ## Round trips (R195) -/

/-- A sprite of zero bits has no 1 bit for any pixel. -/
theorem State.spriteAt_blank {s : State} {n : Nat}
    (hblank : ∀ r, r < n → s.mem.read (effectiveAddr s r) = 0) (x y : Reg) (px py : Nat) :
    s.spriteAt x y n px py = false := by
  refine Bool.eq_false_of_not_eq_true fun hbit => ?_
  obtain ⟨-, -, r, c, hr, -, -, -, hone⟩ := (s.spriteAt_iff x y n px py).1 hbit
  simp [hblank r hr] at hone

/-- Settles O29: a blank sprite inverts nothing; and drawing changes neither the coordinates nor the
sprite's bytes, so the second drawing inverts what the first did. -/
theorem spriteRoundTrips : Obligations.SpriteRoundTrips := by
  unfold Obligations.SpriteRoundTrips
  refine ⟨?blank, ?twice⟩
  case blank =>
    intro ign x y n s hrange hblank
    have hnone := State.spriteAt_blank (s := { s with fb := Display.clear }) hblank x y
    refine ⟨_, _, exec_cls ign s, exec_drw x y hrange, fun px py => ?pixels, ?flag⟩
    case pixels =>
      rw [State.setV_fb, State.pixel_composite, hnone, Display.pixel_clear]
      rfl
    case flag =>
      have hcoll : (State.composite { s with fb := Display.clear } x y n).2 = false := by
        refine Bool.eq_false_of_not_eq_true fun hcoll => ?_
        obtain ⟨px, py, hbit, -⟩ := (State.collision_composite _ x y n).1 hcoll
        rw [hnone] at hbit
        exact Bool.noConfusion hbit
      rw [State.getV_setV_same, hcoll]
      rfl
  case twice =>
    intro x y n s hrange hx hy
    refine ⟨_, _, exec_drw x y hrange, exec_drw x y hrange, fun px py => ?_⟩
    have hsame : ∀ fb b, State.spriteAt ({ s with fb := fb }.setV vf b) x y n px py =
        s.spriteAt x y n px py := by
      intro fb b
      simp only [State.spriteAt, State.getV_setV_other _ _ hx, State.getV_setV_other _ _ hy]
      rfl
    rw [State.setV_fb, State.pixel_composite, hsame, State.setV_fb, State.pixel_composite,
      Bool.xor_assoc, Bool.xor_self, Bool.xor_false]

end Sys2Proof.Machine
end

section
/-! The key wait (44_keypad_timers.md R211, R215): the scan for a release edge, what `exec` answers,
and the slot that waits. -/

namespace Sys2Proof.Machine

theorem State.releaseEdge_iff (s : State) (k : Nat) :
    s.releaseEdge k = true ↔ s.keyPrev.getLsbD k = true ∧ s.key.getLsbD k = false := by
  rw [State.releaseEdge, Bool.and_eq_true, Bool.not_eq_true']

theorem State.firstRelease_eq_some (s : State) (k : Nat) : s.firstRelease = some k ↔
    k < 16 ∧ s.releaseEdge k = true ∧ ∀ j, j < k → ¬ s.releaseEdge j = true := by
  rw [State.firstRelease, List.find?_range_eq_some, List.mem_range]
  simp only [Bool.not_eq_true', Bool.not_eq_true]
  tauto

theorem State.firstRelease_eq_none (s : State) :
    s.firstRelease = none ↔ ∀ k, k < 16 → ¬ s.releaseEdge k = true := by
  rw [State.firstRelease, List.find?_range_eq_none]
  simp only [Bool.not_eq_true', Bool.not_eq_true]

theorem exec_ldVxK_released (x : Reg) {s : State} {k : Nat} (h : s.firstRelease = some k) :
    exec (.ldVxK x) s = .next (s.setV x (BitVec.ofNat 8 k)) := by
  simp only [exec, execLdVxK, h]

theorem exec_ldVxK_waiting (x : Reg) {s : State} (h : s.firstRelease = none) :
    exec (.ldVxK x) s = .next { s with pc := s.pc - 2 } := by
  simp only [exec, execLdVxK, h]

/-- Settles O32: by what the scan finds. -/
theorem keyWaitTakesTheLowestReleasedKey : Obligations.KeyWaitTakesTheLowestReleasedKey := by
  unfold Obligations.KeyWaitTakesTheLowestReleasedKey
  intro x s
  refine ⟨?released, ?waiting⟩
  case released =>
    intro k hk hprev hkey hlower
    have hscan : s.firstRelease = some k := by
      simp only [State.firstRelease_eq_some, State.releaseEdge_iff]
      exact ⟨hk, ⟨hprev, hkey⟩, hlower⟩
    obtain ⟨t, ht, hx, hframe⟩ := exec_writesReg (exec_ldVxK_released x hscan)
    exact ⟨t, ht, by rw [hx, BitVec.toNat_ofNat]; omega, hframe⟩
  case waiting =>
    intro hnone
    have hscan : s.firstRelease = none := by
      simpa only [State.firstRelease_eq_none, State.releaseEdge_iff] using hnone
    exact ⟨_, exec_ldVxK_waiting x hscan, rfl, s.frame_withPc (s.pc - 2)⟩

/-- A slot that waits for a key ends where it began. -/
theorem slotStep_keyWait {s : State} {x : Reg} (hpc : s.pc.toNat ≤ 0xFFE)
    (hdecode : decode (s.mem.fetchWord s.pc.toNat) = .ok (.ldVxK x))
    (hscan : s.firstRelease = none) :
    slotStep s = .next s := by
  have hback : s.pc + 2 - 2 = s.pc := BitVec.add_sub_cancel s.pc 2
  have hexec := exec_ldVxK_waiting x (s := { s with pc := s.pc + 2 }) hscan
  simp only [slotStep, State.fetchDecode_run hpc hdecode, hexec, hback]

/-- Settles O33: the slot changes nothing, so a step is the end of the slot alone. -/
theorem keyWaitReexecutes : Obligations.KeyWaitReexecutes := by
  unfold Obligations.KeyWaitReexecutes
  intro x s hslots hvalid hpc hdecode hnone
  have hscan : s.firstRelease = none := by
    simpa only [State.firstRelease_eq_none, State.releaseEdge_iff] using hnone
  have hstep : step s = .next s.afterSlot := by
    rw [step_slot hslots, slotStep_keyWait hpc hdecode hscan, endSlot_next]
  refine ⟨fun hmore => ?more, fun hlast => ?last⟩
  case more => rw [hstep, State.afterSlot_more hvalid hmore]
  case last =>
    rw [State.afterSlot_last hvalid hlast.le] at hstep
    exact ⟨_, hstep, rfl, timerDown_toNat s.dt, timerDown_toNat s.st⟩

end Sys2Proof.Machine
end

section
/-! What an instruction can do (10_state.md R41; 60_exceptions.md R260): the parts of the state each
is named for, the fault each can latch, and, once for all of them, that `exec` answers a state in
which the fault is recorded and nothing else is changed, or no other part than those is. -/

namespace Sys2Proof

open Machine

/-- The parts of the state an instruction that latches no fault may change: the write column of
R41. -/
def Instr.parts : Instr → List StatePart
  | .cls _ => [.display]
  | .ret _ | .call _ => [.pc, .stack]
  | .jp _ | .jpV0 _ | .seImm _ _ | .sneImm _ _ | .seReg _ _ _ | .sneReg _ _ _
  | .skp _ | .sknp _ => [.pc]
  | .ldImm _ _ | .addImm _ _ | .ldReg _ _ | .or _ _ | .and _ _ | .xor _ _ | .addReg _ _ | .sub _ _
  | .shr _ _ | .subn _ _ | .shl _ _ | .ldVxDt _ | .ldVxMem _ => [.regs]
  | .rnd _ _ => [.regs, .draws]
  | .ldVxK _ => [.regs, .pc]
  | .ldI _ | .addI _ | .ldF _ => [.index]
  | .drw _ _ _ => [.regs, .display]
  | .ldDtVx _ => [.delay]
  | .ldStVx _ => [.sound]
  | .ldB _ | .ldMemVx _ => [.memory]

/-- The fault an instruction latches in a state, if any: the conditions of R262, R263 and R265. -/
def Instr.faultIn (s : State) : Instr → FaultCode
  | .call _ => if s.sp = 15 then .stackOverflow else .none
  | .ret _ => if s.sp = 0 then .stackUnderflow else .none
  | .ldB _ => if 4096 ≤ s.i.toNat + 2 then .memRangeData else .none
  | .drw _ _ n => if outOfRange (effectiveAddr s 0) n then .memRangeData else .none
  | .cls _ | .jp _ | .seImm _ _ | .sneImm _ _ | .seReg _ _ _ | .ldImm _ _ | .addImm _ _ | .ldReg _ _
  | .or _ _ | .and _ _ | .xor _ _ | .addReg _ _ | .sub _ _ | .shr _ _ | .subn _ _ | .shl _ _
  | .sneReg _ _ _ | .ldI _ | .jpV0 _ | .rnd _ _ | .skp _ | .sknp _ | .ldVxDt _ | .ldVxK _
  | .ldDtVx _ | .ldStVx _ | .addI _ | .ldF _ | .ldMemVx _ | .ldVxMem _ => .none

namespace Machine

/-- A frame may be read as one that changes more. -/
theorem frameBut_mono {l m : List StatePart} {s t : State} (h : FrameBut l s t) (hlm : l ⊆ m) :
    FrameBut m s t := fun p hp => h p fun hl => hp (hlm hl)

/-- How an instruction ends: with its fault recorded and nothing else changed, or with no fault and
no part changed but its own. -/
def Ends (i : Instr) (s t : State) : Prop :=
  (i.faultIn s ≠ .none ∧ t = s.raiseIn i (i.faultIn s)) ∨
    (i.faultIn s = .none ∧ FrameBut i.parts s t)

theorem exec_ends (i : Instr) (s : State) : ∃ t, exec i s = .next t ∧ Ends i s t := by
  cases i with
  | cls ign => exact ⟨_, exec_cls ign s, .inr ⟨rfl, s.frame_withDisplay _⟩⟩
  | jp | jpV0 => exact ⟨_, rfl, .inr ⟨rfl, s.frame_withPc _⟩⟩
  | seImm | sneImm | seReg | sneReg | skp | sknp => exact ⟨_, rfl, .inr ⟨rfl, s.frame_skipIf _⟩⟩
  | ldImm | addImm | ldReg | or | and | xor | ldVxDt =>
    exact ⟨_, rfl, .inr ⟨rfl, s.frame_setV _ _⟩⟩
  | addReg | sub | shr | subn | shl =>
    exact ⟨_, rfl, .inr ⟨rfl, s.frame_setFlagThenResult _ _ _⟩⟩
  | rnd x nn => exact ⟨_, exec_rnd x nn s, .inr ⟨rfl, s.frame_setV_withDraws x _ _⟩⟩
  | ldI | addI | ldF => exact ⟨_, rfl, .inr ⟨rfl, s.frame_withIndex _⟩⟩
  | ldDtVx => exact ⟨_, rfl, .inr ⟨rfl, s.frame_withDelay _⟩⟩
  | ldStVx => exact ⟨_, rfl, .inr ⟨rfl, s.frame_withSound _⟩⟩
  | ldMemVx x => exact ⟨_, exec_ldMemVx x s, .inr ⟨rfl, s.frame_dump x⟩⟩
  | ldVxMem x => exact ⟨_, exec_ldVxMem x s, .inr ⟨rfl, s.frame_load x⟩⟩
  | ldVxK x =>
    cases hscan : s.firstRelease with
    | some k =>
      exact ⟨_, exec_ldVxK_released x hscan,
        .inr ⟨rfl, frameBut_mono (s.frame_setV x _) (by simp [Instr.parts])⟩⟩
    | none =>
      exact ⟨_, exec_ldVxK_waiting x hscan,
        .inr ⟨rfl, frameBut_mono (s.frame_withPc _) (by simp [Instr.parts])⟩⟩
  | call nnn =>
    by_cases hsp : s.sp = 15
    · exact ⟨_, exec_call_full nnn hsp, .inl (by simp [Instr.faultIn, hsp])⟩
    · exact ⟨_, exec_call nnn hsp, .inr ⟨if_neg hsp, s.frame_withStackAndPc _ _ _⟩⟩
  | ret ign =>
    by_cases hsp : s.sp = 0
    · exact ⟨_, exec_ret_empty ign hsp, .inl (by simp [Instr.faultIn, hsp])⟩
    · exact ⟨_, exec_ret ign hsp, .inr ⟨if_neg hsp, s.frame_withStackAndPc _ _ _⟩⟩
  | ldB x =>
    by_cases hout : 4096 ≤ s.i.toNat + 2
    · exact ⟨_, exec_ldB_range x hout, .inl (by simp [Instr.faultIn, hout])⟩
    · exact ⟨_, exec_ldB x (Nat.lt_of_not_le hout),
        .inr ⟨if_neg hout, s.frame_withMemory (Memory.writeBytes_font _ _ _)⟩⟩
  | drw x y n =>
    by_cases hout : outOfRange (effectiveAddr s 0) n
    · have hfault : (Instr.drw x y n).faultIn s = .memRangeData := if_pos hout
      exact ⟨_, exec_drw_range x y hout, .inl (by simp [hfault])⟩
    · exact ⟨_, exec_drw x y hout, .inr ⟨if_neg hout, s.frame_drawn _ _⟩⟩

/-- Settles O34: each ends in a state, with its fault recorded or without one. -/
theorem everyInstructionCompletes : Obligations.EveryInstructionCompletes := by
  unfold Obligations.EveryInstructionCompletes
  intro i s
  obtain ⟨t, ht, -⟩ := exec_ends i s
  exact ⟨t, ht⟩

section Inversion
variable {i : Instr} {s t : State} (h : exec i s = .next t)
include h

theorem ends_of_exec : Ends i s t := by
  obtain ⟨u, hu, hends⟩ := exec_ends i s
  obtain rfl : u = t := Host.Outcome.next.inj (hu.symm.trans h)
  exact hends

/-- A part that an instruction changes is one of its own, or the fault record. -/
theorem exec_same {p : StatePart} (hfault : p ≠ .fault) (hp : p ∉ i.parts) : p.same s t := by
  obtain ⟨-, rfl⟩ | ⟨-, hframe⟩ := ends_of_exec h
  · exact s.frame_raise _ _ _ p (by simpa using hfault)
  · exact hframe p hp

theorem exec_changed {p : StatePart} (hfault : p ≠ .fault) (hp : ¬ p.same s t) : p ∈ i.parts :=
  not_not.1 (mt (exec_same h hfault) hp)

end Inversion

/-- Neither what is the host's nor the fault record is an instruction's own. -/
theorem parts_not_host (i : Instr) :
    ∀ p ∈ i.parts, p ∉ [StatePart.keys, .program, .config, .tick, .host, .fault] := by
  cases i <;> simp [Instr.parts]

theorem exec_hostPart {i : Instr} {s t : State} (h : exec i s = .next t) {p : StatePart}
    (hp : p ∈ [StatePart.keys, .program, .config, .tick, .host]) : p.same s t := by
  refine exec_same h (fun hfault => ?_) fun hmem => ?_
  · subst hfault
    simp at hp
  · exact parts_not_host i p hmem (List.mem_append_left [StatePart.fault] hp)

/-- An instruction latches its fault, whole and precise, or leaves the record. -/
theorem exec_faultPart {i : Instr} {s t : State} (h : exec i s = .next t) :
    (i.faultIn s ≠ .none ∧ t = s.raiseIn i (i.faultIn s)) ∨
      (i.faultIn s = .none ∧ StatePart.fault.same s t) := by
  refine (ends_of_exec h).imp_right (And.imp_right fun hframe => hframe .fault fun hmem => ?_)
  exact parts_not_host i .fault hmem (by decide)

/-- Settles O35: none of the five parts is an instruction's own. -/
theorem instructionsLeaveTheHostsStateAlone : Obligations.InstructionsLeaveTheHostsStateAlone := by
  unfold Obligations.InstructionsLeaveTheHostsStateAlone
  intro i s t h p hp
  exact exec_hostPart h hp

end Machine
end Sys2Proof
end

section
/-! Who writes what (10_state.md R21 to R30, R41; 40_control_flow.md R120): the instructions each
part belongs to, and how the flag, PC and the stack can change. -/

namespace Sys2Proof.Machine

/-! ## The instructions a part belongs to (R41) -/

section Writers
variable {i : Instr}

theorem writers_index (h : .index ∈ i.parts) :
    (∃ nnn, i = .ldI nnn) ∨ (∃ x, i = .addI x) ∨ ∃ x, i = .ldF x := by
  cases i <;> simp [Instr.parts] at h ⊢

theorem writers_stack (h : .stack ∈ i.parts) : (∃ nnn, i = .call nnn) ∨ ∃ g, i = .ret g := by
  cases i <;> simp [Instr.parts] at h ⊢

theorem writers_memory (h : .memory ∈ i.parts) : (∃ x, i = .ldB x) ∨ ∃ x, i = .ldMemVx x := by
  cases i <;> simp [Instr.parts] at h ⊢

theorem writers_display (h : .display ∈ i.parts) : (∃ g, i = .cls g) ∨ ∃ x y n, i = .drw x y n := by
  cases i <;> simp [Instr.parts] at h ⊢

theorem writers_delay (h : .delay ∈ i.parts) : ∃ x, i = .ldDtVx x := by
  cases i <;> simp [Instr.parts] at h ⊢

theorem writers_sound (h : .sound ∈ i.parts) : ∃ x, i = .ldStVx x := by
  cases i <;> simp [Instr.parts] at h ⊢

theorem writers_draws (h : .draws ∈ i.parts) : ∃ x nn, i = .rnd x nn := by
  cases i <;> simp [Instr.parts] at h ⊢

end Writers

/-- Settles O36: a part that changed is one of the instruction's own. -/
theorem onlyTheNamedInstructionsWrite : Obligations.OnlyTheNamedInstructionsWrite := by
  unfold Obligations.OnlyTheNamedInstructionsWrite
  intro i s t h
  exact ⟨fun hp => writers_index (exec_changed h (by decide) hp),
    fun hp => writers_stack (exec_changed h (by decide) hp),
    fun hp => writers_memory (exec_changed h (by decide) hp),
    fun hp => writers_display (exec_changed h (by decide) hp),
    fun hp => writers_delay (exec_changed h (by decide) hp),
    fun hp => writers_sound (exec_changed h (by decide) hp),
    fun hp => writers_draws (exec_changed h (by decide) hp)⟩

/-! ## VF (R21) -/

/-- A register write changes VF only when it is the destination. -/
theorem State.eq_vf_of_setV {s : State} {x : Reg} {b : Byte}
    (h : (s.setV x b).getV vf ≠ s.getV vf) : x = vf :=
  not_not.1 fun hx => h (s.getV_setV_other b fun e => hx e.symm)

/-- A register load changes VF only when it reaches it. -/
theorem State.eq_vf_of_load {s : State} {x : Reg}
    (h : (s.load x).getV vf ≠ s.getV vf) : x = vf := by
  have hle : vf ≤ x := not_not.1 fun hx => h (by rw [State.getV_load, if_neg hx])
  exact le_antisymm (Fin.le_last x) hle

/-- Settles O37: an instruction that has no register of its own leaves VF, one with a destination
changes it only as the destination. -/
theorem onlySixInstructionsWriteTheFlag : Obligations.OnlySixInstructionsWriteTheFlag := by
  unfold Obligations.OnlySixInstructionsWriteTheFlag
  intro i s t h hvf
  have hregs : .regs ∈ i.parts := exec_changed h (by decide) fun hsame => hvf (hsame vf)
  cases i with
  | addReg x y | sub x y | shr x y | subn x y | shl x y => exact .inl ⟨x, y, by simp⟩
  | drw x y n => exact .inr (.inl ⟨x, y, n, rfl⟩)
  | ldImm x nn | addImm x nn | rnd x nn =>
    cases h
    obtain rfl := State.eq_vf_of_setV hvf
    exact .inr (.inr (.inl ⟨nn, by simp⟩))
  | ldReg x y | or x y | and x y | xor x y =>
    cases h
    obtain rfl := State.eq_vf_of_setV hvf
    exact .inr (.inr (.inr (.inl ⟨y, by simp⟩)))
  | ldVxDt x =>
    cases h
    obtain rfl := State.eq_vf_of_setV hvf
    simp
  | ldVxMem x =>
    cases h
    obtain rfl := State.eq_vf_of_load hvf
    simp
  | ldVxK x =>
    cases hscan : s.firstRelease with
    | some k =>
      rw [exec_ldVxK_released x hscan] at h
      cases h
      obtain rfl := State.eq_vf_of_setV hvf
      simp
    | none =>
      rw [exec_ldVxK_waiting x hscan] at h
      cases h
      exact absurd rfl hvf
  | _ => simp [Instr.parts] at hregs

/-! ## PC (R120) -/

theorem State.pc_skipIf_of_ne {s : State} {c : Bool} (h : (s.skipIf c).pc ≠ s.pc) :
    (s.skipIf c).pc = s.pc + 2 := by
  cases c with
  | true => rfl
  | false => exact absurd rfl h

/-- Settles O38: an instruction that has not PC of its own leaves it. -/
theorem onlyControlTransfersMoveThePc : Obligations.OnlyControlTransfersMoveThePc := by
  unfold Obligations.OnlyControlTransfersMoveThePc
  intro i s t h hpc
  have hparts : .pc ∈ i.parts := exec_changed h (by decide) hpc
  cases i with
  | jp nnn =>
    cases h
    exact .inl ⟨nnn, .inl rfl, zext16_toNat nnn⟩
  | call nnn =>
    by_cases hsp : s.sp = 15
    · rw [exec_call_full nnn hsp] at h
      cases h
      exact absurd rfl hpc
    · rw [exec_call nnn hsp] at h
      cases h
      exact .inl ⟨nnn, .inr rfl, zext16_toNat nnn⟩
  | jpV0 nnn =>
    cases h
    exact .inr (.inl ⟨nnn, rfl, offsetTarget_toNat s nnn⟩)
  | ret g =>
    by_cases hsp : s.sp = 0
    · rw [exec_ret_empty g hsp] at h
      cases h
      exact absurd rfl hpc
    · rw [exec_ret g hsp] at h
      cases h
      exact .inr (.inr (.inl ⟨g, rfl, rfl⟩))
  | seImm x nn | sneImm x nn =>
    cases h
    exact .inr (.inr (.inr (.inl ⟨⟨x, nn, by simp⟩, State.pc_skipIf_of_ne hpc⟩)))
  | seReg x y g | sneReg x y g =>
    cases h
    exact .inr (.inr (.inr (.inr (.inl ⟨⟨x, y, g, by simp⟩, State.pc_skipIf_of_ne hpc⟩))))
  | skp x | sknp x =>
    cases h
    exact .inr (.inr (.inr (.inr (.inr (.inl ⟨⟨x, by simp⟩, State.pc_skipIf_of_ne hpc⟩)))))
  | ldVxK x =>
    cases hscan : s.firstRelease with
    | some k =>
      rw [exec_ldVxK_released x hscan] at h
      cases h
      exact absurd rfl hpc
    | none =>
      rw [exec_ldVxK_waiting x hscan] at h
      cases h
      exact .inr (.inr (.inr (.inr (.inr (.inr ⟨⟨x, rfl⟩, rfl⟩)))))
  | _ => simp [Instr.parts] at hparts

/-! ## The stack (R24, R25) -/

/-- A stack entry stays or, if it is not the last, takes the advanced PC; SP moves by one
at most. -/
theorem exec_stack {i : Instr} {s t : State} (h : exec i s = .next t) :
    (∀ k : Fin 16, t.stack[k] = s.stack[k] ∨ (t.stack[k] = s.pc ∧ k ≠ 15)) ∧
      (t.sp.val = s.sp.val ∨ t.sp.val = s.sp.val + 1 ∨ t.sp.val + 1 = s.sp.val) := by
  by_cases hparts : .stack ∈ i.parts
  · obtain ⟨nnn, rfl⟩ | ⟨g, rfl⟩ := writers_stack hparts
    · by_cases hsp : s.sp = 15
      · rw [exec_call_full nnn hsp] at h
        cases h
        exact ⟨fun _ => .inl rfl, .inl rfl⟩
      · rw [exec_call nnn hsp] at h
        cases h
        refine ⟨fun k => ?_, .inr (.inl (sp_add_one hsp))⟩
        by_cases hk : k = s.sp
        · exact .inr ⟨hk ▸ stack_set_same s.stack s.sp s.pc, hk ▸ hsp⟩
        · exact .inl (stack_set_other s.stack s.pc hk)
    · by_cases hsp : s.sp = 0
      · rw [exec_ret_empty g hsp] at h
        cases h
        exact ⟨fun _ => .inl rfl, .inl rfl⟩
      · rw [exec_ret g hsp] at h
        cases h
        exact ⟨fun _ => .inl rfl, .inr (.inr (sp_sub_one hsp))⟩
  · obtain ⟨hsp, hstack⟩ := exec_same h (by decide) hparts
    exact ⟨fun k => .inl (hstack k), .inl (congrArg Fin.val hsp)⟩

/-- Settles O39. -/
theorem lastStackEntryIsNeverWritten : Obligations.LastStackEntryIsNeverWritten := by
  unfold Obligations.LastStackEntryIsNeverWritten
  intro i s t h
  obtain ⟨hentries, hsp⟩ := exec_stack h
  exact ⟨(hentries 15).resolve_right fun hwritten => hwritten.2 rfl, hsp⟩

end Sys2Proof.Machine
end

section
/-! What an instruction does not read (10_state.md R27, R30, R32): `exec` from a state with those
fields blanked. -/

namespace Sys2Proof.Machine

/-- The dump and the load are folds of updates that blanking commutes with. -/
theorem State.asSeenByPrograms_dump (s : State) (x : Reg) :
    (s.asSeenByPrograms.dump x).asSeenByPrograms = (s.dump x).asSeenByPrograms := by
  have hfold : s.asSeenByPrograms.dump x = (s.dump x).asSeenByPrograms :=
    List.foldl_hom State.asSeenByPrograms fun _ _ => rfl
  rw [hfold]
  rfl

theorem State.asSeenByPrograms_load (s : State) (x : Reg) :
    (s.asSeenByPrograms.load x).asSeenByPrograms = (s.load x).asSeenByPrograms := by
  have hfold : s.asSeenByPrograms.load x = (s.load x).asSeenByPrograms :=
    List.foldl_hom State.asSeenByPrograms fun _ _ => rfl
  rw [hfold]
  rfl

theorem State.asSeenByPrograms_skipIf (s : State) (c : Bool) :
    (s.asSeenByPrograms.skipIf c).asSeenByPrograms = (s.skipIf c).asSeenByPrograms := by
  cases c <;> rfl

/-- Blanking what a program cannot see changes nothing it can see of what an instruction does. -/
theorem exec_asSeenByPrograms (i : Instr) (s : State) :
    ∃ t u, exec i s = .next t ∧ exec i s.asSeenByPrograms = .next u ∧
      u.asSeenByPrograms = t.asSeenByPrograms := by
  cases i with
  | ldMemVx x =>
    exact ⟨_, _, exec_ldMemVx x s, exec_ldMemVx x _, s.asSeenByPrograms_dump x⟩
  | ldVxMem x =>
    exact ⟨_, _, exec_ldVxMem x s, exec_ldVxMem x _, s.asSeenByPrograms_load x⟩
  | seImm | sneImm | seReg | sneReg | skp | sknp =>
    exact ⟨_, _, rfl, rfl, s.asSeenByPrograms_skipIf _⟩
  | call nnn =>
    by_cases hsp : s.sp = 15
    · exact ⟨_, _, exec_call_full nnn hsp, exec_call_full nnn hsp, rfl⟩
    · exact ⟨_, _, exec_call nnn hsp, exec_call nnn hsp, rfl⟩
  | ret g =>
    by_cases hsp : s.sp = 0
    · exact ⟨_, _, exec_ret_empty g hsp, exec_ret_empty g hsp, rfl⟩
    · exact ⟨_, _, exec_ret g hsp, exec_ret g hsp, rfl⟩
  | ldVxK x =>
    cases hscan : s.firstRelease with
    | some k => exact ⟨_, _, exec_ldVxK_released x hscan, exec_ldVxK_released x hscan, rfl⟩
    | none => exact ⟨_, _, exec_ldVxK_waiting x hscan, exec_ldVxK_waiting x hscan, rfl⟩
  | ldB x =>
    by_cases hout : 4096 ≤ s.i.toNat + 2
    · exact ⟨_, _, exec_ldB_range x hout, exec_ldB_range x hout, rfl⟩
    · exact ⟨_, _, exec_ldB x (Nat.lt_of_not_le hout), exec_ldB x (Nat.lt_of_not_le hout), rfl⟩
  | drw x y n =>
    by_cases hout : outOfRange (effectiveAddr s 0) n
    · exact ⟨_, _, exec_drw_range x y hout, exec_drw_range x y hout, rfl⟩
    · exact ⟨_, _, exec_drw x y hout, exec_drw x y hout, rfl⟩
  | _ => exact ⟨_, _, rfl, rfl, rfl⟩

/-- Settles O40: both runs look like the run from the one blanked state. -/
theorem programsCannotSeeTheHostsFields : Obligations.ProgramsCannotSeeTheHostsFields := by
  unfold Obligations.ProgramsCannotSeeTheHostsFields
  intro i s s' hseen
  obtain ⟨t, u, ht, hu, hut⟩ := exec_asSeenByPrograms i s
  obtain ⟨t', u', ht', hu', hut'⟩ := exec_asSeenByPrograms i s'
  rw [← hseen, hu] at hu'
  cases hu'
  exact ⟨t, t', ht, ht', hut.symm.trans hut'⟩

end Sys2Proof.Machine
end

section
/-! The slot (45_engine_tick.md R232, R234, R235; 60_exceptions.md R260 to R269): what a slot leaves
alone, the fault it latches and the state that fault leaves, and the end of the tick. -/

namespace Sys2Proof.Machine

/-! ## Frames of the slot -/

theorem samePart_trans {p : StatePart} {s t u : State} (hst : p.same s t) (htu : p.same t u) :
    p.same s u := by
  cases p <;> simp_all [StatePart.same]

theorem frameBut_trans {l m : List StatePart} {s t u : State} (hst : FrameBut l s t)
    (htu : FrameBut m t u) : FrameBut (l ++ m) s u := by
  intro p hp
  rw [List.mem_append, not_or] at hp
  exact samePart_trans (hst p hp.1) (htu p hp.2)

theorem State.frame_withSlots (s : State) (n : Nat) : FrameBut [.tick] s { s with slots := n } := by
  intro p hp
  cases p with
  | tick => exact absurd (List.mem_singleton_self _) hp
  | _ => simp [StatePart.same, State.getV]

/-- The end of a slot moves the position in the tick and, after the last one, the timers. -/
theorem State.frame_afterSlot (s : State) : FrameBut [.tick, .delay, .sound] s s.afterSlot := by
  obtain ⟨-, h⟩ | ⟨-, -, h⟩ | ⟨-, -, h⟩ := s.afterSlot_cases
  · rw [h]
    exact frameBut_mono (s.frame_withSlots 0) (by simp)
  · rw [h]
    exact frameBut_trans (s.frame_withSlots 0) (State.frame_decTimers _)
  · rw [h]
    exact frameBut_mono (s.frame_withSlots _) (by simp)

/-- The end of a slot leaves the fault record, and memory as data. -/
theorem State.afterSlot_fault (s : State) : StatePart.fault.same s s.afterSlot :=
  s.frame_afterSlot .fault (by decide)

theorem State.afterSlot_mem (s : State) : s.afterSlot.mem = s.mem := by
  obtain ⟨-, h⟩ | ⟨-, -, h⟩ | ⟨-, -, h⟩ := s.afterSlot_cases <;> rw [h]

section Slot
variable {s u : State} (h : slotStep s = .next u)
include h

/-- A slot leaves what is the host's, as its instruction does. -/
theorem slotStep_hostPart {p : StatePart}
    (hp : p ∈ [StatePart.keys, .program, .config, .tick, .host]) : p.same s u := by
  have hfault : p ∉ [StatePart.fault] := fun hmem => by simp [List.mem_singleton.1 hmem] at hp
  have hpc : p ∉ [StatePart.pc] := fun hmem => by simp [List.mem_singleton.1 hmem] at hp
  have hadvance := s.frame_withPc (s.pc + 2) p hpc
  obtain ⟨-, hraise⟩ | ⟨-, -, hraise⟩ | ⟨-, i, -, hexec⟩ := slotStep_cases s
  · rw [hraise] at h
    cases h
    exact s.frame_raise _ _ _ p hfault
  · rw [hraise] at h
    cases h
    exact samePart_trans hadvance (State.frame_raise _ _ _ _ p hfault)
  · rw [hexec] at h
    exact samePart_trans hadvance (exec_hostPart h hp)

theorem slotStep_slots : u.slots = s.slots := slotStep_hostPart h (p := .tick) (by decide)

end Slot

/-- A slot always has a next state, and so has a step inside a tick. -/
theorem slotStep_completes (s : State) : ∃ u, slotStep s = .next u := by
  obtain ⟨-, h⟩ | ⟨-, -, h⟩ | ⟨-, i, -, h⟩ := slotStep_cases s
  · exact ⟨_, h⟩
  · exact ⟨_, h⟩
  · obtain ⟨t, ht, -⟩ := exec_ends i { s with pc := s.pc + 2 }
    exact ⟨t, h.trans ht⟩

theorem step_slot_next {s u : State} (hslots : s.slots ≠ 0) (h : slotStep s = .next u) :
    step s = .next u.afterSlot := by
  rw [step_slot hslots, h, endSlot_next]

theorem slotStep_range {s : State} (hpc : 0xFFE < s.pc.toNat) :
    slotStep s = .next (s.raise .memRangeFetch s.pc 0) := by
  rw [slotStep, State.fetchDecode_range hpc]

theorem slotStep_invalid {s : State} {e : DecodeError} (hpc : s.pc.toNat ≤ 0xFFE)
    (hdecode : decode (s.mem.fetchWord s.pc.toNat) = .error e) :
    slotStep s = .next
      ({ s with pc := s.pc + 2 }.raise .invalidOpcode s.pc (s.mem.fetchWord s.pc.toNat)) := by
  rw [slotStep, State.fetchDecode_invalid hpc hdecode]

theorem slotStep_run {s : State} {i : Instr} (hpc : s.pc.toNat ≤ 0xFFE)
    (hdecode : decode (s.mem.fetchWord s.pc.toNat) = .ok i) :
    slotStep s = exec i { s with pc := s.pc + 2 } := by
  rw [slotStep, State.fetchDecode_run hpc hdecode]

/-! ## The step runs the decoded instruction (R234) -/

/-- The bytes at an address decode as the big-endian word there (R66). -/
theorem decode_of_decodeBytes {m : Memory} {a : Nat} {i : Instr} {rest : List Byte}
    (h : decodeBytes (m.read a :: m.read (a + 1) :: rest) = .ok (i, rest)) :
    decode (m.fetchWord a) = .ok i := by
  simp only [decodeBytes] at h
  split at h <;> cases h
  assumption

/-- Settles O41: the bytes make up the word fetched, and the end of the slot is by its cases. -/
theorem stepRunsTheDecodedInstruction : Obligations.StepRunsTheDecodedInstruction := by
  unfold Obligations.StepRunsTheDecodedInstruction
  intro s i rest hslots hpc hbytes
  have hslot := slotStep_run hpc (decode_of_decodeBytes hbytes)
  refine ⟨by rw [step_slot hslots, hslot], fun t ht => ?_⟩
  have hstep := step_slot_next hslots (hslot.trans ht)
  refine ⟨fun hfault => ?_, fun hnone hlast => ?_, fun hnone hmore => ?_⟩
  · rw [hstep, State.afterSlot_faulted hfault]
  · rw [hstep, State.afterSlot_last hnone hlast]
  · rw [hstep, State.afterSlot_more hnone hmore]

/-! ## A fault ends the tick (R261, R264, R268) -/

theorem step_faulted {s u : State} (hslots : s.slots ≠ 0) (h : slotStep s = .next u)
    (hu : u.faultValid = true) : step s = .next { u with slots := 0 } := by
  rw [step_slot_next hslots h, State.afterSlot_faulted hu]

theorem State.frame_raiseAndEnd (s : State) (c : FaultCode) (a w : Word) :
    FrameBut [.fault, .tick] s { s.raise c a w with slots := 0 } :=
  frameBut_trans (s.frame_raise c a w) (State.frame_withSlots _ 0)

/-- Settles O42: fault entry, and the end of the tick. -/
theorem fetchPastMemoryFaults : Obligations.FetchPastMemoryFaults := by
  unfold Obligations.FetchPastMemoryFaults
  intro s hslots hpc
  exact ⟨_, step_faulted hslots (slotStep_range hpc) rfl, s.latched_raise _ _ _, rfl,
    s.frame_raiseAndEnd _ _ _⟩

theorem advancedPc_toNat {w : Word} (h : w.toNat ≤ 0xFFE) : (w + 2).toNat = w.toNat + 2 := by
  rw [BitVec.toNat_add]
  change (w.toNat + 2) % 65536 = _
  omega

/-- Settles O43: the advance of PC, fault entry, and the end of the tick. -/
theorem invalidWordFaults : Obligations.InvalidWordFaults := by
  unfold Obligations.InvalidWordFaults
  intro s e hslots hpc hdecode
  refine ⟨_, step_faulted hslots (slotStep_invalid hpc hdecode) rfl,
    State.latched_raise { s with pc := s.pc + 2 } _ _ _, advancedPc_toNat hpc, rfl, ?frame⟩
  case frame =>
    exact frameBut_mono
      (frameBut_trans (s.frame_withPc (s.pc + 2)) (State.frame_raiseAndEnd _ _ _ _)) (by simp)

/-! ## The fault of a slot (R260, R269) -/

/-- The fault a slot latches, if any, in the order fetch, decode, instruction. -/
def State.slotFault (s : State) : FaultCode :=
  if 0xFFE < s.pc.toNat then .memRangeFetch
  else
    match decode (s.mem.fetchWord s.pc.toNat) with
    | .error _ => .invalidOpcode
    | .ok i => i.faultIn s

/-- The state a slot leaves that latches a fault (R267, D7, D8). -/
def State.slotFaulted (s : State) : State :=
  { s with
    pc := if s.slotFault = .memRangeFetch then s.pc else s.pc + 2
    faultValid := true
    faultCode := s.slotFault
    faultAddr := s.pc
    faultWord := if s.slotFault = .memRangeFetch then 0 else s.mem.fetchWord s.pc.toNat }

section SlotFault
variable {s : State}

theorem State.slotFault_range (hpc : 0xFFE < s.pc.toNat) : s.slotFault = .memRangeFetch := by
  rw [State.slotFault, if_pos hpc]

theorem State.slotFault_invalid {e : DecodeError} (hpc : s.pc.toNat ≤ 0xFFE)
    (hdecode : decode (s.mem.fetchWord s.pc.toNat) = .error e) : s.slotFault = .invalidOpcode := by
  rw [State.slotFault, if_neg (Nat.not_lt_of_le hpc), hdecode]

theorem State.slotFault_run {i : Instr} (hpc : s.pc.toNat ≤ 0xFFE)
    (hdecode : decode (s.mem.fetchWord s.pc.toNat) = .ok i) : s.slotFault = i.faultIn s := by
  rw [State.slotFault, if_neg (Nat.not_lt_of_le hpc), hdecode]

end SlotFault

/-- The fault of an instruction does not depend on PC. -/
theorem faultIn_withPc (i : Instr) (s : State) (w : Word) :
    i.faultIn { s with pc := w } = i.faultIn s := by cases i <;> rfl

section Conditions
variable (i : Instr) (s : State)

/-- Which instruction latches which fault, and when (R262, R263, R265). -/
theorem faultIn_eq_stackOverflow :
    i.faultIn s = .stackOverflow ↔ s.sp = 15 ∧ ∃ nnn, i = .call nnn := by
  cases i <;> simp [Instr.faultIn, ite_eq_iff]

theorem faultIn_eq_stackUnderflow : i.faultIn s = .stackUnderflow ↔ s.sp = 0 ∧ ∃ g, i = .ret g := by
  cases i <;> simp [Instr.faultIn, ite_eq_iff]

theorem faultIn_eq_memRangeData : i.faultIn s = .memRangeData ↔
    (∃ x, i = .ldB x ∧ 4096 ≤ s.i.toNat + 2) ∨
      ∃ x y n, i = .drw x y n ∧ 1 ≤ n ∧ 4096 ≤ s.i.toNat + n - 1 := by
  cases i <;> simp [Instr.faultIn, ite_eq_iff, outOfRange, effectiveAddr]

theorem faultIn_ne_memRangeFetch : i.faultIn s ≠ .memRangeFetch := by
  cases i <;> simp [Instr.faultIn, ite_eq_iff]

theorem faultIn_ne_invalidOpcode : i.faultIn s ≠ .invalidOpcode := by
  cases i <;> simp [Instr.faultIn, ite_eq_iff]

end Conditions

/-- A slot latches its fault, whole and precise, or leaves the record. In the meaning of an
instruction PC less 2 is the address of the fetch, and its encoding the word that was fetched (log
6). -/
theorem slotStep_fault {s u : State} (h : slotStep s = .next u) :
    (s.slotFault ≠ .none ∧ u = s.slotFaulted) ∨
      (s.slotFault = .none ∧ StatePart.fault.same s u) := by
  unfold State.slotFaulted
  by_cases hpc : 0xFFE < s.pc.toNat
  · rw [slotStep_range hpc] at h
    cases h
    simp [State.slotFault_range hpc, State.raise]
  · have hpc : s.pc.toNat ≤ 0xFFE := Nat.le_of_not_lt hpc
    cases hdecode : decode (s.mem.fetchWord s.pc.toNat) with
    | error e =>
      rw [slotStep_invalid hpc hdecode] at h
      cases h
      simp [State.slotFault_invalid hpc hdecode, State.raise]
    | ok i =>
      rw [slotStep_run hpc hdecode] at h
      obtain ⟨-, hword⟩ := encode_of_decode hdecode
      have hback : s.pc + 2 - 2 = s.pc := BitVec.add_sub_cancel s.pc 2
      rw [State.slotFault_run hpc hdecode]
      obtain ⟨hfault, rfl⟩ | ⟨hnone, hsame⟩ := exec_faultPart h
      · rw [faultIn_withPc] at hfault
        refine .inl ⟨hfault, ?_⟩
        rw [if_neg (faultIn_ne_memRangeFetch i s), if_neg (faultIn_ne_memRangeFetch i s)]
        simp only [State.raiseIn, State.raise, faultIn_withPc, hword, hback]
      · rw [faultIn_withPc] at hnone
        exact .inr ⟨hnone, hsame⟩

/-- A step inside a tick that starts with no fault: its slot's fault, whole and precise, and the end
of the tick; or no fault. -/
theorem step_fault {s t : State} (hslots : s.slots ≠ 0) (hvalid : s.faultValid = false)
    (h : step s = .next t) :
    (s.slotFault ≠ .none ∧ t = { s.slotFaulted with slots := 0 }) ∨
      (s.slotFault = .none ∧ t.faultValid = false) := by
  obtain ⟨u, hu⟩ := slotStep_completes s
  rw [step_slot_next hslots hu] at h
  cases h
  obtain ⟨hfault, rfl⟩ | ⟨hnone, hsame, -⟩ := slotStep_fault hu
  · exact .inl ⟨hfault, State.afterSlot_faulted rfl⟩
  · obtain ⟨hafter, -⟩ := u.afterSlot_fault
    exact .inr ⟨hnone, hafter.trans (hsame.trans hvalid)⟩

/-- Settles O44: the state of a slot that faults is given whole. -/
theorem faultsArePrecise : Obligations.FaultsArePrecise := by
  unfold Obligations.FaultsArePrecise
  intro s t hslots hvalid h hfault
  obtain ⟨-, rfl⟩ | ⟨-, hnone⟩ := step_fault hslots hvalid h
  · rfl
  · exact absurd hfault (by simp [hnone])

/-- A code is latched exactly when it is the slot's. -/
theorem latched_iff_slotFault {s t : State} (hslots : s.slots ≠ 0) (hvalid : s.faultValid = false)
    (h : step s = .next t) {c : FaultCode} (hc : c ≠ .none) :
    Latched t c t.faultAddr t.faultWord ↔ s.slotFault = c := by
  obtain ⟨-, rfl⟩ | ⟨hnone, hvalid'⟩ := step_fault hslots hvalid h
  · simp [Latched, State.slotFaulted]
  · simp [Latched, hnone, hvalid', hc.symm]

/-- Settles O45: by fetch, decode and instruction, a slot's fault is the code in question exactly on
its condition. -/
theorem faultsExactlyOnTheirConditions : Obligations.FaultsExactlyOnTheirConditions := by
  unfold Obligations.FaultsExactlyOnTheirConditions
  intro s t hslots hvalid h
  have hlatched {c : FaultCode} := latched_iff_slotFault hslots hvalid h (c := c)
  rw [hlatched (by decide), hlatched (by decide), hlatched (by decide), hlatched (by decide),
    hlatched (by decide)]
  by_cases hpc : 0xFFE < s.pc.toNat
  · have hnot : ¬ s.pc.toNat ≤ 0xFFE := Nat.not_le_of_lt hpc
    simp [State.slotFault_range hpc, hpc, hnot]
  · have hle : s.pc.toNat ≤ 0xFFE := Nat.le_of_not_lt hpc
    cases hdecode : decode (s.mem.fetchWord s.pc.toNat) with
    | error e => simp [State.slotFault_invalid hle hdecode, hpc, hle]
    | ok i =>
      simp [State.slotFault_run hle hdecode, hpc, hle, faultIn_eq_stackOverflow,
        faultIn_eq_stackUnderflow, faultIn_eq_memRangeData, faultIn_ne_memRangeFetch,
        faultIn_ne_invalidOpcode]

end Sys2Proof.Machine
end

section
/-! The tick (45_engine_tick.md R232 to R238): how it starts in each run state, how it ends, and
that the steps of a tick are the whole tick. -/

namespace Sys2Proof.Machine

/-! ## The start of a tick, by the run state -/

section Start
variable {s : State} (keys : BitVec 16)

theorem State.beginTick_halted (hl : s.loaded = false) : s.beginTick keys = s := by
  rw [State.beginTick, if_pos hl]

theorem State.beginTick_faulted (hf : s.faultValid = true) : s.beginTick keys = s := by
  simp [State.beginTick, hf]

theorem State.beginTick_paused (hl : s.loaded = true) (hf : s.faultValid = false)
    (hp : s.pause = true) : s.beginTick keys = s.resync keys := by
  simp [State.beginTick, hl, hf, hp]

theorem State.beginTick_noSlots (hl : s.loaded = true) (hf : s.faultValid = false)
    (hp : s.pause = false) (hipt : s.ipt = 0) :
    s.beginTick keys = (s.resync keys).decTimers := by
  simp [State.beginTick, hl, hf, hp, hipt]

theorem State.beginTick_running (hl : s.loaded = true) (hf : s.faultValid = false)
    (hp : s.pause = false) (hipt : s.ipt ≠ 0) :
    s.beginTick keys = { s.resync keys with slots := s.ipt } := by
  simp [State.beginTick, hl, hf, hp, hipt]

end Start

theorem step_tick {s : State} {keys : BitVec 16} {rest : List HostOp} (hidle : s.slots = 0)
    (hinbox : s.inbox = .tick keys :: rest) :
    step s = .next (State.beginTick { s with inbox := rest } keys) := step_host hidle hinbox

/-- Settles O47: the step is the start of the tick, by the run state. -/
theorem tickStartsByRunState : Obligations.TickStartsByRunState := by
  unfold Obligations.TickStartsByRunState
  intro s keys rest hidle hinbox hvalid
  rw [step_tick hidle hinbox]
  refine ⟨fun hl => ?halted, fun hl hp => ?paused, fun hl hp hipt => ?running⟩
  case halted => rw [State.beginTick_halted (s := { s with inbox := rest }) keys hl]
  case paused =>
    rw [State.beginTick_paused (s := { s with inbox := rest }) keys hl hvalid hp]
    rfl
  case running =>
    rw [State.beginTick_running (s := { s with inbox := rest }) keys hl hvalid hp hipt]
    rfl

/-- Settles O46: the state of a slot that faults says so itself; and a tick does not start while a
fault is latched. -/
theorem faultEndsTheTickAndLaterTicksDoNothing :
    Obligations.FaultEndsTheTickAndLaterTicksDoNothing := by
  unfold Obligations.FaultEndsTheTickAndLaterTicksDoNothing
  refine ⟨?slot, ?later⟩
  case slot =>
    intro s t hslots hvalid h hfault
    obtain ⟨-, rfl⟩ | ⟨-, hnone⟩ := step_fault hslots hvalid h
    · exact ⟨rfl, rfl, rfl, rfl⟩
    · exact absurd hfault (by simp [hnone])
  case later =>
    intro s keys rest hidle hvalid hinbox
    rw [step_tick hidle hinbox, State.beginTick_faulted (s := { s with inbox := rest }) keys hvalid]

/-- Settles O48: a slot leaves the position in the tick, so the end of the slot is by it. -/
theorem timersCountDownOncePerTick : Obligations.TimersCountDownOncePerTick := by
  unfold Obligations.TimersCountDownOncePerTick
  refine ⟨?slot, ?noSlots⟩
  case slot =>
    intro s u hslots hslot hvalid
    have hpos := slotStep_slots hslot
    refine ⟨u.afterSlot, step_slot_next hslots hslot, fun hlast => ?_, fun hmore => ?_⟩
    · rw [State.afterSlot_last hvalid (by omega)]
      exact ⟨rfl, timerDown_toNat u.dt, timerDown_toNat u.st⟩
    · rw [State.afterSlot_more hvalid (by omega)]
      exact ⟨by change u.slots - 1 + 1 = s.slots; omega, rfl, rfl⟩
  case noSlots =>
    intro s keys rest hidle hinbox hvalid hl hp hipt
    refine ⟨(State.resync { s with inbox := rest } keys).decTimers, ?step, rfl, rfl,
      timerDown_toNat s.dt, timerDown_toNat s.st, hidle, rfl, rfl, ?frame⟩
    case step =>
      rw [step_tick hidle hinbox,
        State.beginTick_noSlots (s := { s with inbox := rest }) keys hl hvalid hp hipt]
    case frame =>
      intro p hpart
      cases p with
      | keys | delay | sound | host => simp at hpart
      | _ => simp [StatePart.same, State.getV]

/-! ## A slot does not read the position in the tick -/

/-- The same state at another position in the tick. -/
def State.atSlots (s : State) (n : Nat) : State := { s with slots := n }

theorem State.atSlots_self {s : State} {n : Nat} (h : s.slots = n) : s.atSlots n = s := by
  subst h
  rfl

theorem State.atSlots_dump (s : State) (n : Nat) (x : Reg) :
    (s.atSlots n).dump x = (s.dump x).atSlots n :=
  List.foldl_hom (fun t => State.atSlots t n) fun _ _ => rfl

theorem State.atSlots_load (s : State) (n : Nat) (x : Reg) :
    (s.atSlots n).load x = (s.load x).atSlots n :=
  List.foldl_hom (fun t => State.atSlots t n) fun _ _ => rfl

theorem State.atSlots_skipIf (s : State) (n : Nat) (c : Bool) :
    (s.atSlots n).skipIf c = (s.skipIf c).atSlots n := by cases c <;> rfl

/-- From another position in the tick an instruction does the same and leaves that position. -/
theorem exec_atSlots (i : Instr) (s : State) (n : Nat) :
    ∃ t, exec i s = .next t ∧ exec i (s.atSlots n) = .next (t.atSlots n) := by
  cases i with
  | ldMemVx x => exact ⟨_, exec_ldMemVx x s, congrArg Host.Outcome.next (s.atSlots_dump n x)⟩
  | ldVxMem x => exact ⟨_, exec_ldVxMem x s, congrArg Host.Outcome.next (s.atSlots_load n x)⟩
  | seImm | sneImm | seReg | sneReg | skp | sknp =>
    exact ⟨_, rfl, congrArg Host.Outcome.next (s.atSlots_skipIf n _)⟩
  | call nnn =>
    by_cases hsp : s.sp = 15
    · exact ⟨_, exec_call_full nnn hsp, exec_call_full nnn hsp⟩
    · exact ⟨_, exec_call nnn hsp, exec_call nnn hsp⟩
  | ret g =>
    by_cases hsp : s.sp = 0
    · exact ⟨_, exec_ret_empty g hsp, exec_ret_empty g hsp⟩
    · exact ⟨_, exec_ret g hsp, exec_ret g hsp⟩
  | ldVxK x =>
    cases hscan : s.firstRelease with
    | some k => exact ⟨_, exec_ldVxK_released x hscan, exec_ldVxK_released x hscan⟩
    | none => exact ⟨_, exec_ldVxK_waiting x hscan, exec_ldVxK_waiting x hscan⟩
  | ldB x =>
    by_cases hout : 4096 ≤ s.i.toNat + 2
    · exact ⟨_, exec_ldB_range x hout, exec_ldB_range x hout⟩
    · have hin := Nat.lt_of_not_le hout
      exact ⟨_, exec_ldB x hin, exec_ldB x hin⟩
  | drw x y m =>
    by_cases hout : outOfRange (effectiveAddr s 0) m
    · exact ⟨_, exec_drw_range x y hout, exec_drw_range x y hout⟩
    · exact ⟨_, exec_drw x y hout, exec_drw x y hout⟩
  | _ => exact ⟨_, rfl, rfl⟩

theorem slotStep_atSlots {s t : State} (h : slotStep s = .next t) (n : Nat) :
    slotStep (s.atSlots n) = .next (t.atSlots n) := by
  obtain ⟨hpc, hraise⟩ | ⟨hpc, ⟨e, hdecode⟩, hraise⟩ | ⟨hpc, i, hdecode, hexec⟩ := slotStep_cases s
  · cases hraise.symm.trans h
    exact slotStep_range hpc
  · cases hraise.symm.trans h
    exact slotStep_invalid (s := s.atSlots n) hpc hdecode
  · obtain ⟨u, hu, hat⟩ := exec_atSlots i { s with pc := s.pc + 2 } n
    cases hu.symm.trans (hexec.symm.trans h)
    exact (slotStep_run (s := s.atSlots n) hpc hdecode).trans hat

/-! ## The steps of a tick (R232, R77) -/

theorem run_succ {M : Host.Core} {s t : M.State} (h : M.step s = .next t) (k : Nat) :
    M.run (k + 1) s = M.run k t := by
  simp only [Host.Core.run, h]

theorem runSlots_faulted {s t : State} (h : slotStep s = .next t) (ht : t.faultValid = true)
    (n : Nat) :
    runSlots (n + 1) s = .next t := by
  simp only [runSlots, h, ht, if_true]

theorem runSlots_more {s t : State} (h : slotStep s = .next t) (ht : t.faultValid = false)
    (n : Nat) :
    runSlots (n + 1) s = runSlots n t := by
  simp [runSlots, h, ht]

theorem step_atSlots {s t : State} (h : slotStep s = .next t) (n : Nat) :
    core.step (s.atSlots (n + 1)) = .next (t.atSlots (n + 1)).afterSlot :=
  step_slot_next (Nat.succ_ne_zero n) (slotStep_atSlots h (n + 1))

section AfterSlot
variable {t : State} (hidle : t.slots = 0)
include hidle

theorem State.afterSlot_atSlots_faulted (ht : t.faultValid = true) (n : Nat) :
    (t.atSlots n).afterSlot = t := by
  rw [State.afterSlot_faulted (s := t.atSlots n) ht]
  exact State.atSlots_self hidle

theorem State.afterSlot_atSlots_last (ht : t.faultValid = false) :
    (t.atSlots 1).afterSlot = t.decTimers := by
  rw [State.afterSlot_last (s := t.atSlots 1) ht le_rfl]
  exact congrArg State.decTimers (State.atSlots_self hidle)

end AfterSlot

theorem State.afterSlot_atSlots_more {t : State} (ht : t.faultValid = false) (n : Nat) :
    (t.atSlots (n + 2)).afterSlot = t.atSlots (n + 1) :=
  State.afterSlot_more (s := t.atSlots (n + 2)) ht (Nat.succ_lt_succ n.succ_pos)

/-- The slots left to run, one a step, are the loop of R232 over them: cut short by a fault, else
with the timer decrement after the last. -/
theorem run_atSlots (n : Nat) (s : State) (hidle : s.slots = 0) :
    ∃ k, k ≤ n + 1 ∧ Host.Core.run core k (s.atSlots (n + 1)) = runSlots (n + 1) s := by
  induction n generalizing s with
  | zero =>
    obtain ⟨t, hslot⟩ := slotStep_completes s
    have ht : t.slots = 0 := (slotStep_slots hslot).trans hidle
    refine ⟨1, le_rfl, ?_⟩
    rw [run_succ (step_atSlots hslot 0)]
    cases hfault : t.faultValid with
    | true =>
      rw [State.afterSlot_atSlots_faulted ht hfault, runSlots_faulted hslot hfault]
      rfl
    | false =>
      rw [State.afterSlot_atSlots_last ht hfault, runSlots_more hslot hfault]
      rfl
  | succ n ih =>
    obtain ⟨t, hslot⟩ := slotStep_completes s
    have ht : t.slots = 0 := (slotStep_slots hslot).trans hidle
    cases hfault : t.faultValid with
    | true =>
      refine ⟨1, Nat.succ_pos _, ?_⟩
      rw [run_succ (step_atSlots hslot (n + 1)), State.afterSlot_atSlots_faulted ht hfault,
        runSlots_faulted hslot hfault]
      rfl
    | false =>
      obtain ⟨k, hk, hrun⟩ := ih t ht
      refine ⟨k + 1, Nat.succ_le_succ hk, ?_⟩
      rw [run_succ (step_atSlots hslot (n + 1)), State.afterSlot_atSlots_more hfault, hrun,
        runSlots_more hslot hfault]

theorem wholeTick_unstarted {s : State} (keys : BitVec 16)
    (h : s.loaded = false ∨ s.faultValid = true) : wholeTick keys s = .next s := by
  cases hl : s.loaded <;> simp_all [wholeTick]

theorem wholeTick_paused {s : State} (keys : BitVec 16) (hl : s.loaded = true)
    (hf : s.faultValid = false) (hp : s.pause = true) :
    wholeTick keys s = .next (s.resync keys) := by
  simp [wholeTick, hl, hf, hp]

theorem wholeTick_running {s : State} (keys : BitVec 16) (hl : s.loaded = true)
    (hf : s.faultValid = false) (hp : s.pause = false) :
    wholeTick keys s = runSlots s.ipt (s.resync keys) := by
  simp [wholeTick, hl, hf, hp]

/-- By how the tick starts: after the start at most `IPT` slots are left, and their steps are the
loop. -/
theorem run_beginTick (keys : BitVec 16) {s : State} (hidle : s.slots = 0) :
    ∃ k, k ≤ s.ipt ∧ core.run k (s.beginTick keys) = wholeTick keys s := by
  obtain ⟨hnone, hbegin⟩ | ⟨hl, hf, hp, hbegin⟩ |
      ⟨hl, hf, hp, hipt, hbegin⟩ | ⟨hl, hf, hp, hipt, hbegin⟩ :=
    s.beginTick_cases keys
  · exact ⟨0, Nat.zero_le _, by rw [hbegin, wholeTick_unstarted keys hnone]; rfl⟩
  · exact ⟨0, Nat.zero_le _, by rw [hbegin, wholeTick_paused keys hl hf hp]; rfl⟩
  · exact ⟨0, Nat.zero_le _, by rw [hbegin, wholeTick_running keys hl hf hp, hipt]; rfl⟩
  · obtain ⟨n, hn⟩ := Nat.exists_eq_succ_of_ne_zero hipt
    obtain ⟨k, hk, hrun⟩ := run_atSlots n (s.resync keys) hidle
    refine ⟨k, hn ▸ hk, ?_⟩
    rw [hbegin, wholeTick_running keys hl hf hp, hn]
    exact hrun

/-- Settles O49: one step starts the tick, and the steps after it are its slots. -/
theorem steppedTickIsTheWholeTick : Obligations.SteppedTickIsTheWholeTick := by
  unfold Obligations.SteppedTickIsTheWholeTick
  intro s keys rest hidle hinbox
  obtain ⟨k, hk, hrun⟩ := run_beginTick keys (s := { s with inbox := rest }) hidle
  have hbound : k + 1 ≤ 1 + s.ipt := Nat.add_comm 1 s.ipt ▸ Nat.succ_le_succ hk
  exact ⟨k + 1, Nat.succ_pos k, hbound,
    (run_succ (M := core) (step_tick hidle hinbox) k).trans hrun⟩

end Sys2Proof.Machine
end

section
/-! The host's operations (45_engine_tick.md R231, R239 to R242; 70_reset_and_hazards.md R300 to
R302): every move one of them can make, said once, and what each leaves. -/

namespace Sys2Proof.Machine

/-! ## The moves (R231) -/

/-- The state after an image has been placed (R239). -/
def State.romPlaced (s : State) (data : List Byte) : State :=
  { s with
    mem := s.mem.writeBytes 0x200 data, romLen := data.length, loaded := true }.reply .romLoaded

/-- The move an operation makes in a state. -/
inductive HostMove (s : State) : HostOp → State → Prop
  | powerOn (h : s.faultValid = false) : HostMove s .powerOn s.poweredOn
  | hardReset : HostMove s .hardReset s.hardReset
  | softReset : HostMove s .softReset s.softReset
  | loadFails {image : Image} (h : s.loaded = false) :
      HostMove s (.loadRom image) (s.reply .loadError)
  | loadPlaces {data : List Byte} (h : s.loaded = false) (hlen : data.length ≤ 3584) :
      HostMove s (.loadRom (.bytes data)) (s.romPlaced data)
  | tick (keys : BitVec 16) : HostMove s (.tick keys) (s.beginTick keys)
  | setIpt (n : Nat) : HostMove s (.setIpt n) { s with ipt := n }
  | setPalette {on off : Color} (h : on ≠ off) :
      HostMove s (.setPalette on off) { s with colorOn := on, colorOff := off }
  | setPause (b : Bool) : HostMove s (.setPause b) { s with pause := b }
  | clearFault (h : s.faultValid = true) : HostMove s .clearFault s.clearFaultRecord
  | readOut : HostMove s .readOut (s.reply (.readOut s.readOut))

/-- The four operations without a move, each on its precondition (logs 25, 26, 28, 41). -/
inductive HostStop (s : State) : HostOp → Refusal → Prop
  | load {image : Image} (h : s.loaded = true) : HostStop s (.loadRom image) .loadWhileLoaded
  | palette (c : Color) : HostStop s (.setPalette c c) .paletteColorsEqual
  | clearFault (h : s.faultValid = false) : HostStop s .clearFault .noFaultToClear
  | powerOn (h : s.faultValid = true) : HostStop s .powerOn .powerOnWhileFaulted

/-- Every operation moves or stops. -/
theorem hostOp_cases (s : State) (op : HostOp) :
    (∃ t, s.hostOp op = .next t ∧ HostMove s op t) ∨
      ∃ r, s.hostOp op = .refused r ∧ HostStop s op r := by
  cases op with
  | powerOn =>
    obtain ⟨hf, h⟩ | ⟨hf, h⟩ := s.powerOn_cases
    · exact .inr ⟨_, h, .powerOn hf⟩
    · exact .inl ⟨_, h, .powerOn hf⟩
  | hardReset => exact .inl ⟨_, rfl, .hardReset⟩
  | softReset => exact .inl ⟨_, rfl, .softReset⟩
  | loadRom image =>
    obtain ⟨hl, h⟩ | ⟨hl, -, h⟩ | ⟨hl, data, rfl, hlen, h⟩ := s.loadRom_cases image
    · exact .inr ⟨_, h, .load hl⟩
    · exact .inl ⟨_, h, .loadFails hl⟩
    · exact .inl ⟨_, h, .loadPlaces hl hlen⟩
  | tick keys => exact .inl ⟨_, rfl, .tick keys⟩
  | setIpt n => exact .inl ⟨_, rfl, .setIpt n⟩
  | setPalette on off =>
    obtain ⟨rfl, h⟩ | ⟨hne, h⟩ := s.setPalette_cases on off
    · exact .inr ⟨_, h, .palette on⟩
    · exact .inl ⟨_, h, .setPalette hne⟩
  | setPause b => exact .inl ⟨_, rfl, .setPause b⟩
  | clearFault =>
    obtain ⟨hf, h⟩ | ⟨hf, h⟩ := s.clearFault_cases
    · exact .inl ⟨_, h, .clearFault hf⟩
    · exact .inr ⟨_, h, .clearFault hf⟩
  | readOut => exact .inl ⟨_, rfl, .readOut⟩

theorem hostMove_of_hostOp {s t : State} {op : HostOp} (h : s.hostOp op = .next t) :
    HostMove s op t := by
  obtain ⟨u, hu, hmove⟩ | ⟨r, hr, -⟩ := hostOp_cases s op
  · obtain rfl : u = t := Host.Outcome.next.inj (hu.symm.trans h)
    exact hmove
  · exact nomatch hr.symm.trans h

/-- Settles O50: a slot always has a next state, an idle machine stays, and an operation of the host
moves or stops. -/
theorem onlyHostPreconditionsHaveNoMove : Obligations.OnlyHostPreconditionsHaveNoMove := by
  unfold Obligations.OnlyHostPreconditionsHaveNoMove
  intro s
  by_cases hidle : s.slots = 0
  case neg =>
    obtain ⟨u, hu⟩ := slotStep_completes s
    exact .inl ⟨_, step_slot_next hidle hu⟩
  case pos =>
    cases hinbox : s.inbox with
    | nil => exact .inl ⟨s, step_idle hidle hinbox⟩
    | cons op rest =>
      obtain ⟨t, ht, -⟩ | ⟨r, hr, hstop⟩ := hostOp_cases { s with inbox := rest } op
      · exact .inl ⟨t, (step_host hidle hinbox).trans ht⟩
      · have hstep := (step_host hidle hinbox).trans hr
        refine .inr ⟨hidle, op, rest, rfl, ?_⟩
        cases hstop with
        | load hl => exact .inl ⟨_, rfl, hl, hstep⟩
        | palette c => exact .inr (.inl ⟨c, rfl, hstep⟩)
        | clearFault hf => exact .inr (.inr (.inl ⟨rfl, hf, hstep⟩))
        | powerOn hf => exact .inr (.inr (.inr ⟨rfl, hf, hstep⟩))

/-! ## Power-on and the resets (R300 to R302, R242, R271) -/

/-- Settles O56: by whether a fault is latched. -/
theorem powerOnInstallsTheResetValues : Obligations.PowerOnInstallsTheResetValues := by
  unfold Obligations.PowerOnInstallsTheResetValues
  intro s rest hidle hinbox
  refine ⟨fun hf => ?moves, fun hf => ?refused⟩
  case moves =>
    refine ⟨State.poweredOn { s with inbox := rest }, ?step, ?values⟩
    case step => exact (step_host hidle hinbox).trans (if_neg (by simp [hf]))
    case values =>
      simp [State.getV, Memory.blank, Config.defaultIpt, colorOnDefault_ne]
  case refused => exact (step_host hidle hinbox).trans (if_pos hf)

/-- A slot with a fault latched ends with one latched. -/
theorem slotStep_keepsFault {s u : State} (hf : s.faultValid = true) (h : slotStep s = .next u) :
    u.faultValid = true := by
  obtain ⟨-, rfl⟩ | ⟨-, hsame, -⟩ := slotStep_fault h
  · rfl
  · exact hsame.trans hf

/-- The only moves out of the faulted state (R271). -/
theorem op_of_fault_left {s t : State} {op : HostOp} (hmove : HostMove s op t)
    (hf : s.faultValid = true) (ht : t.faultValid = false) :
    op ∈ [HostOp.hardReset, .softReset, .clearFault] := by
  cases hmove with
  | hardReset | softReset | clearFault => simp
  | powerOn h => simp [hf] at h
  | tick keys => simp [State.beginTick_faulted keys hf, hf] at ht
  | loadFails | loadPlaces | setIpt | setPalette | setPause | readOut =>
    exact absurd (hf.symm.trans ht) (by decide)

/-- Settles O57: each of the three by what its move leaves; and a step that leaves a fault is no
slot and not idle, so it is a move of the host. -/
theorem resetsAndClearFault : Obligations.ResetsAndClearFault := by
  unfold Obligations.ResetsAndClearFault
  refine ⟨fun s rest hidle => ⟨fun hinbox => ?hard, fun hinbox => ?soft, fun hinbox hf => ?clear⟩,
    fun s t hf h ht => ?left⟩
  case hard =>
    refine ⟨State.hardReset { s with inbox := rest }, step_host hidle hinbox, ?_⟩
    simp [State.getV, StatePart.same, Memory.blank, hidle]
  case soft =>
    refine ⟨State.softReset { s with inbox := rest }, step_host hidle hinbox, ?_⟩
    simp [State.getV, StatePart.same, hidle]
  case clear => exact (step_host hidle hinbox).trans (if_pos hf)
  case left =>
    obtain ⟨-, u, hu, rfl⟩ | ⟨-, -, rfl⟩ | ⟨hidle, op, rest, hinbox, hop⟩ := step_eq_next h
    · obtain ⟨hafter, -⟩ := u.afterSlot_fault
      rw [hafter, slotStep_keepsFault hf hu] at ht
      exact Bool.noConfusion ht
    · rw [hf] at ht
      exact Bool.noConfusion ht
    · exact ⟨hidle, op, rest, hinbox, op_of_fault_left (hostMove_of_hostOp hop) hf ht⟩

/-! ## Loading a program (R239, R266) -/

theorem loadRom_fits {s : State} {data : List Byte} (hl : s.loaded = false)
    (hlen : data.length ≤ 3584) : s.loadRom (.bytes data) = .next (s.romPlaced data) := by
  simp [State.loadRom, State.romPlaced, hl, Nat.not_lt_of_le hlen]

theorem loadRom_fails {s : State} {image : Image} (hl : s.loaded = false)
    (h : image = .unreadable ∨ ∃ data, image = .bytes data ∧ 3584 < data.length) :
    s.loadRom image = .next (s.reply .loadError) := by
  obtain rfl | ⟨data, rfl, hlen⟩ := h
  · simp [State.loadRom, hl]
  · simp [State.loadRom, hl, hlen]

theorem State.frame_romPlaced (s : State) (rest : List HostOp) (data : List Byte) :
    FrameBut [.memory, .program, .host] s (State.romPlaced { s with inbox := rest } data) := by
  intro p hp
  cases p with
  | memory | program | host => simp at hp
  | _ => simp [StatePart.same, State.romPlaced, State.getV]

/-- Settles O58: by whether there is an image that fits. -/
theorem loadRomPlacesTheImage : Obligations.LoadRomPlacesTheImage := by
  unfold Obligations.LoadRomPlacesTheImage
  intro s image rest hc hidle hl hinbox
  refine ⟨fun data himage hlen => ?placed, fun hbad => ?failed⟩
  case placed =>
    subst himage
    have hread := Memory.read_writeBytes hc (a := 0x200) (bs := data) (by omega)
    have hmove := loadRom_fits (s := { s with inbox := rest }) hl hlen
    refine ⟨_, (step_host hidle hinbox).trans hmove, fun k hk => ?_, fun a ha => ?_,
      rfl, rfl, rfl, rfl,
      s.frame_romPlaced rest data⟩
    · exact (hread (0x200 + k)).trans (by rw [if_pos (by omega), Nat.add_sub_cancel_left])
    · exact (hread a).trans (if_neg (by omega))
  case failed =>
    exact (step_host hidle hinbox).trans (loadRom_fails (s := { s with inbox := rest }) hl hbad)

/-! ## Read-out (R241) -/

/-- The pixel (x, y) is at index `64 * y + x` (log 36). -/
theorem State.readOut_pixel (s : State) (x : Fin 64) (y : Fin 32) (h : 64 * y.val + x.val < 2048) :
    s.readOut.pixels[64 * y.val + x.val] = s.pixelColor x y := by
  have hx : (64 * y.val + x.val) % 64 = x.val := by omega
  have hy : (64 * y.val + x.val) / 64 = y.val := by omega
  simp only [State.readOut, Vector.getElem_ofFn, hx, hy]

/-- Settles O60: the answer is the read-out of the state, and a step appends it. -/
theorem readOutDeliversThePixels : Obligations.ReadOutDeliversThePixels := by
  unfold Obligations.ReadOutDeliversThePixels
  intro s rest hidle hinbox
  exact ⟨State.readOut { s with inbox := rest }, step_host hidle hinbox,
    fun x y h => State.readOut_pixel { s with inbox := rest } x y h,
    rfl, rfl, rfl, rfl, rfl, rfl, rfl, rfl, rfl⟩

end Sys2Proof.Machine
end

section
/-! The invariants (10_state.md R30 to R42; 45_engine_tick.md R239): each holds after reset, is kept
by a slot, and is kept by every move of the host, so by every step. -/

namespace Sys2Proof.Machine

/-- What a slot and every move of the host keeps, a step keeps. -/
theorem step_keeps {P : State → Prop} {s t : State} (h : step s = .next t) (hs : P s)
    (hslot : ∀ u, s.slots ≠ 0 → slotStep s = .next u → P u.afterSlot)
    (hhost : ∀ op rest, s.slots = 0 → HostMove { s with inbox := rest } op t → P t) : P t := by
  obtain ⟨hslots, u, hu, rfl⟩ | ⟨-, -, rfl⟩ | ⟨hidle, op, rest, -, hop⟩ := step_eq_next h
  · exact hslot u hslots hu
  · exact hs
  · exact hhost op rest hidle (hostMove_of_hostOp hop)

/-! ## Memory (R60) -/

theorem State.load_mem (s : State) (x : Reg) : (s.load x).mem = s.mem :=
  List.foldlRecOn (motive := fun t : State => t.mem = s.mem) _ _ rfl fun _ h _ _ => h

/-- An instruction keeps memory canonical: only the digits and the dump write it, below 4096. -/
theorem exec_wf {i : Instr} {s t : State} (h : exec i s = .next t) (hc : s.mem.wf) : t.mem.wf := by
  cases i with
  | ldMemVx x =>
    cases h
    exact State.wf_dump hc x
  | ldVxMem x =>
    cases h
    exact (s.load_mem x).symm ▸ hc
  | ldB x =>
    by_cases hout : 4096 ≤ s.i.toNat + 2
    · rw [exec_ldB_range x hout] at h
      cases h
      exact hc
    · rw [exec_ldB x (Nat.lt_of_not_le hout)] at h
      cases h
      exact Memory.wf_writeBytes hc (by simp only [effectiveAddr, bcdDigits, List.length]; omega)
  | seImm | sneImm | seReg | sneReg | skp | sknp =>
    cases h
    exact (s.skipIf_mem _).symm ▸ hc
  | call | ret | drw | ldVxK =>
    simp only [exec, execCall, execRet, execDrw, execLdVxK] at h
    split at h <;> cases h <;> exact hc
  | _ =>
    cases h
    exact hc

theorem slotStep_wf {s u : State} (h : slotStep s = .next u) (hc : s.mem.wf) : u.mem.wf := by
  obtain ⟨-, hraise⟩ | ⟨-, -, hraise⟩ | ⟨-, i, -, hexec⟩ := slotStep_cases s
  · cases hraise.symm.trans h
    exact hc
  · cases hraise.symm.trans h
    exact hc
  · exact exec_wf (hexec.symm.trans h) hc

/-- The start of a tick leaves memory. -/
theorem State.beginTick_mem (s : State) (keys : BitVec 16) : (s.beginTick keys).mem = s.mem := by
  obtain ⟨-, h⟩ | ⟨-, -, -, h⟩ | ⟨-, -, -, -, h⟩ | ⟨-, -, -, -, h⟩ := s.beginTick_cases keys <;>
    rw [h] <;> rfl

theorem hostMove_wf {s t : State} {op : HostOp} (h : HostMove s op t)
    (hc : s.mem.wf) : t.mem.wf := by
  cases h with
  | powerOn | hardReset => exact s.mem.wf_cleared
  | loadPlaces _ hlen => exact Memory.wf_writeBytes hc (by omega)
  | tick keys => exact (s.beginTick_mem keys).symm ▸ hc
  | softReset | loadFails | setIpt | setPalette | setPause | clearFault | readOut => exact hc

/-- Settles O51: no slot and no move of the host writes at or above 4096. -/
theorem stepKeepsMemoryCanonical : Obligations.StepKeepsMemoryCanonical := by
  unfold Obligations.StepKeepsMemoryCanonical
  intro s t hc h
  refine step_keeps h hc (fun u _ hu => ?slot) fun op rest _ hmove => hostMove_wf hmove hc
  case slot =>
    rw [State.canonical, State.afterSlot_mem]
    exact slotStep_wf hu hc

/-! ## PC and the stack (R42) -/

theorem pcBounded_of_same {s t : State} (hpc : StatePart.pc.same s t)
    (hstack : StatePart.stack.same s t) (hs : s.pcBounded) : t.pcBounded := by
  obtain ⟨hle, hentries⟩ := hs
  exact ⟨hpc.symm ▸ hle, fun k => (hstack.2 k).symm ▸ hentries k⟩

/-- An instruction run at `PC = a + 2` keeps the bounds: the largest target is the offset sum, and
the address a call saves is the advanced PC. -/
theorem exec_pcBounded {i : Instr} {s t : State} (hs : s.pcBounded) (hpc : s.pc.toNat ≤ 0xFFE)
    (h : exec i { s with pc := s.pc + 2 } = .next t) : t.pcBounded := by
  obtain ⟨-, hentries⟩ := hs
  have hadvanced := advancedPc_toNat hpc
  obtain ⟨hstack, -⟩ := exec_stack h
  refine ⟨?pc, fun k => ?entry⟩
  case pc =>
    by_cases hmoved : t.pc = s.pc + 2
    · rw [hmoved]
      omega
    · have hskipped : (s.pc + 2 + 2).toNat ≤ 0x1002 := by
        rw [BitVec.toNat_add]
        exact (Nat.mod_le _ _).trans (by rw [hadvanced]; exact Nat.add_le_add_right hpc 4)
      obtain ⟨nnn, -, ht⟩ | ⟨nnn, -, ht⟩ | ⟨g, -, ht⟩ | ⟨-, ht⟩ | ⟨-, ht⟩ | ⟨-, ht⟩ | ⟨-, ht⟩ :=
        onlyControlTransfersMoveThePc i _ t h hmoved
      · have := nnn.isLt
        omega
      · have := nnn.isLt
        have := (s.getV 0).isLt
        change t.pc.toNat = nnn.toNat + (s.getV 0).toNat at ht
        omega
      · exact ht ▸ (hentries t.sp).trans (by decide)
      · exact ht ▸ hskipped.trans (by decide)
      · exact ht ▸ hskipped.trans (by decide)
      · exact ht ▸ hskipped.trans (by decide)
      · rw [ht,
          show ({ s with pc := s.pc + 2 } : State).pc - 2 = s.pc from BitVec.add_sub_cancel s.pc 2]
        omega
  case entry =>
    obtain hsame | ⟨hsaved, -⟩ := hstack k
    · exact hsame.symm ▸ hentries k
    · rw [hsaved]
      change (s.pc + 2).toNat ≤ 0x1000
      omega

theorem slotStep_pcBounded {s u : State} (h : slotStep s = .next u) (hs : s.pcBounded) :
    u.pcBounded := by
  obtain ⟨hle, hentries⟩ := hs
  obtain ⟨-, hraise⟩ | ⟨hpc, -, hraise⟩ | ⟨hpc, i, -, hexec⟩ := slotStep_cases s
  · cases hraise.symm.trans h
    exact ⟨hle, hentries⟩
  · cases hraise.symm.trans h
    exact ⟨by change (s.pc + 2).toNat ≤ 0x10FE; rw [advancedPc_toNat hpc]; omega, hentries⟩
  · exact exec_pcBounded ⟨hle, hentries⟩ hpc (hexec.symm.trans h)

/-- The start of a tick changes the keys, the timers and the position in the tick. -/
theorem State.frame_beginTick (s : State) (keys : BitVec 16) :
    FrameBut [.keys, .delay, .sound, .tick] s (s.beginTick keys) := by
  have hresync := s.frame_resync keys
  obtain ⟨-, h⟩ | ⟨-, -, -, h⟩ | ⟨-, -, -, -, h⟩ | ⟨-, -, -, -, h⟩ := s.beginTick_cases keys <;>
    rw [h]
  · exact fun p _ => samePart_refl s p
  · exact frameBut_mono hresync (by simp)
  · exact frameBut_mono (frameBut_trans hresync (State.frame_decTimers _)) (by simp)
  · exact frameBut_mono (frameBut_trans hresync (State.frame_withSlots _ _)) (by simp)

/-- Every PC and stack of a reset. -/
theorem pcBounded_of_reset {s : State} (hpc : s.pc = 0x200)
    (hstack : s.stack = Vector.replicate 16 0) :
    s.pcBounded := by
  refine ⟨by rw [hpc]; decide, fun k => ?_⟩
  simp [hstack]

theorem hostMove_pcBounded {s t : State} {op : HostOp} (h : HostMove s op t) (hs : s.pcBounded) :
    t.pcBounded := by
  cases h with
  | powerOn | hardReset | softReset => exact pcBounded_of_reset rfl rfl
  | tick keys =>
    have hframe := s.frame_beginTick keys
    exact pcBounded_of_same (hframe .pc (by decide)) (hframe .stack (by decide)) hs
  | loadFails | loadPlaces | setIpt | setPalette | setPause | clearFault | readOut => exact hs

/-- Settles O52: by what a slot and a move of the host can do to PC and the stack. -/
theorem stepKeepsPcBounded : Obligations.StepKeepsPcBounded := by
  unfold Obligations.StepKeepsPcBounded
  intro s t hs h
  refine step_keeps h hs (fun u _ hu => ?slot) fun op rest _ hmove => hostMove_pcBounded hmove hs
  case slot =>
    have hframe := u.frame_afterSlot
    exact pcBounded_of_same (hframe .pc (by decide)) (hframe .stack (by decide))
      (slotStep_pcBounded hu hs)

/-! ## Run state, fault record, colours and image length (R30, R32, R35, R36) -/

/-- The fault record is empty exactly when no fault is latched (R35). -/
def State.recordCoherent (s : State) : Prop :=
  (s.faultValid = false ↔ s.faultCode = .none) ∧
    (s.faultValid = false → s.faultAddr = 0 ∧ s.faultWord = 0)

theorem recordCoherent_of_same {s t : State} (h : StatePart.fault.same s t)
    (hs : s.recordCoherent) : t.recordCoherent := by
  obtain ⟨hvalid, hcode, haddr, hword⟩ := h
  unfold State.recordCoherent
  rw [hvalid, hcode, haddr, hword]
  exact hs

theorem State.coherent.record {s : State} (hs : s.coherent) : s.recordCoherent :=
  ⟨hs.fault_code, hs.fault_empty⟩

/-- What keeps program and configuration is coherent if its record and its slots are. -/
theorem coherent_of_same {s t : State} (hs : s.coherent) (hprogram : StatePart.program.same s t)
    (hconfig : StatePart.config.same s t) (hrecord : t.recordCoherent)
    (hslots : t.slots ≠ 0 → t.loaded = true ∧ t.faultValid = false ∧ t.pause = false) :
    t.coherent := by
  obtain ⟨hloaded, hlen⟩ := hprogram
  obtain ⟨-, -, hon, hoff, -⟩ := hconfig
  exact {
    slots_running := hslots
    fault_code := hrecord.1
    fault_empty := hrecord.2
    colors_differ := by rw [hon, hoff]; exact hs.colors_differ
    rom_fits := by rw [hlen]; exact hs.rom_fits
    rom_none := by rw [hloaded, hlen]; exact hs.rom_none }

theorem slotStep_recordCoherent {s u : State} (h : slotStep s = .next u) (hs : s.recordCoherent) :
    u.recordCoherent := by
  obtain ⟨hfault, rfl⟩ | ⟨-, hsame⟩ := slotStep_fault h
  · simp [State.recordCoherent, State.slotFaulted, hfault]
  · exact recordCoherent_of_same hsame hs

theorem slotStep_coherent {s u : State} (hs : s.coherent) (hslots : s.slots ≠ 0)
    (h : slotStep s = .next u) : u.afterSlot.coherent := by
  obtain ⟨hloaded, -, hpause⟩ := hs.slots_running hslots
  have hframe := u.frame_afterSlot
  have hprogram := samePart_trans (slotStep_hostPart h (p := .program) (by decide))
    (hframe .program (by decide))
  have hconfig := samePart_trans (slotStep_hostPart h (p := .config) (by decide))
    (hframe .config (by decide))
  refine coherent_of_same hs hprogram hconfig
    (recordCoherent_of_same u.afterSlot_fault (slotStep_recordCoherent h hs.record)) fun hmore => ?_
  refine ⟨hprogram.1.trans hloaded, ?_, hconfig.1.trans hpause⟩
  obtain ⟨-, hafter⟩ | ⟨-, -, hafter⟩ | ⟨hvalid, -, -⟩ := u.afterSlot_cases
  · simp [hafter] at hmore
  · simp [hafter] at hmore
  · exact u.afterSlot_fault.1.trans hvalid

theorem hostMove_coherent {s t : State} {op : HostOp} (hs : s.coherent) (hidle : s.slots = 0)
    (h : HostMove s op t) : t.coherent := by
  have hrun : ∀ {b c d : Bool}, s.slots ≠ 0 → b = true ∧ c = false ∧ d = false :=
    fun hne => absurd hidle hne
  cases h with
  | powerOn => constructor <;> simp [colorOnDefault_ne]
  | hardReset => constructor <;> simp [hidle, hs.colors_differ]
  | softReset =>
    exact coherent_of_same hs ⟨rfl, rfl⟩ ⟨rfl, rfl, rfl, rfl, rfl⟩ ⟨by simp, by simp⟩ hrun
  | clearFault =>
    exact coherent_of_same hs ⟨rfl, rfl⟩ ⟨rfl, rfl, rfl, rfl, rfl⟩ ⟨by simp, by simp⟩ hrun
  | loadFails | readOut =>
    exact coherent_of_same hs ⟨rfl, rfl⟩ ⟨rfl, rfl, rfl, rfl, rfl⟩ hs.record hrun
  | loadPlaces _ hlen =>
    exact ⟨hrun, hs.fault_code, hs.fault_empty, hs.colors_differ, hlen, fun h => nomatch h⟩
  | setIpt | setPause =>
    exact ⟨hrun, hs.fault_code, hs.fault_empty, hs.colors_differ, hs.rom_fits, hs.rom_none⟩
  | setPalette hne => exact ⟨hrun, hs.fault_code, hs.fault_empty, hne, hs.rom_fits, hs.rom_none⟩
  | tick keys =>
    have hframe := s.frame_beginTick keys
    have hprogram := hframe .program (by decide)
    have hconfig := hframe .config (by decide)
    have hfault := hframe .fault (by decide)
    refine coherent_of_same hs hprogram hconfig
      (recordCoherent_of_same hfault hs.record) fun hne => ?_
    rw [hprogram.1, hfault.1, hconfig.1]
    obtain ⟨-, h⟩ | ⟨-, -, -, h⟩ | ⟨-, -, -, -, h⟩ | ⟨hl, hf, hp, -, -⟩ := s.beginTick_cases keys
    · rw [h] at hne
      exact hrun hne
    · rw [h] at hne
      exact hrun hne
    · rw [h] at hne
      exact hrun hne
    · exact ⟨hl, hf, hp⟩

/-- What the host has asked for plays no part in the invariants. -/
theorem coherent_withInbox {s : State} (hs : s.coherent) (inbox : List HostOp) :
    State.coherent { s with inbox := inbox } :=
  ⟨hs.slots_running, hs.fault_code, hs.fault_empty, hs.colors_differ, hs.rom_fits, hs.rom_none⟩

/-- Settles O53: a slot keeps program and configuration, and its fault ends the tick; the host moves
only between ticks. -/
theorem stepKeepsCoherent : Obligations.StepKeepsCoherent := by
  unfold Obligations.StepKeepsCoherent
  intro s t hs h
  exact step_keeps h hs (fun u hslots hu => slotStep_coherent hs hslots hu)
    fun op rest hidle hmove => hostMove_coherent (coherent_withInbox hs rest) hidle hmove

/-! ## Halted as after reset (R239) -/

/-- The reset state with a state's own configuration and the model's fields: what the state is while
no program is loaded. -/
def State.asReset (s : State) : State :=
  { State.resetWith s.mem.font with
    pause := s.pause, ipt := s.ipt, colorOn := s.colorOn, colorOff := s.colorOff
    draws := s.draws, inbox := s.inbox, outbox := s.outbox }

theorem haltedAsReset_iff (s : State) :
    s.haltedAsReset ↔ (s.loaded = false → s = s.asReset) := Iff.rfl

theorem haltedAsReset_withInbox {s : State} (hs : s.haltedAsReset) (inbox : List HostOp) :
    State.haltedAsReset { s with inbox := inbox } :=
  fun hl => congrArg (fun r : State => { r with inbox := inbox }) (hs hl)

/-- A reset ends as after reset from every state; any other move that leaves no program loaded
started without one, and does to the reset state what it does to the state. -/
theorem hostMove_haltedAsReset {s t : State} {op : HostOp} (hs : s.haltedAsReset)
    (hidle : s.slots = 0) (h : HostMove s op t) : t.haltedAsReset := by
  rw [haltedAsReset_iff] at hs ⊢
  cases h with
  | powerOn => exact fun _ => rfl
  | hardReset => exact fun _ => congrArg State.hardReset (State.atSlots_self hidle).symm
  | softReset => exact fun hl => congrArg State.softReset (hs hl)
  | loadFails => exact fun hl => congrArg (State.reply · .loadError) (hs hl)
  | loadPlaces => exact fun hl => nomatch hl
  | tick keys =>
    intro hl
    have hloaded : s.loaded = false := (s.frame_beginTick keys .program (by decide)).1.symm.trans hl
    rw [State.beginTick_halted keys hloaded]
    exact hs hloaded
  | setIpt n => exact fun hl => congrArg (fun r : State => { r with ipt := n }) (hs hl)
  | setPause b => exact fun hl => congrArg (fun r : State => { r with pause := b }) (hs hl)
  | @setPalette on off =>
    exact fun hl => congrArg (fun r : State => { r with colorOn := on, colorOff := off }) (hs hl)
  | clearFault => exact fun hl => congrArg State.clearFaultRecord (hs hl)
  | readOut => exact fun hl => congrArg (State.reply · (.readOut s.readOut)) (hs hl)

/-- Settles O54: a slot runs only while a program is loaded, and leaves it loaded. -/
theorem stepKeepsHaltedAsReset : Obligations.StepKeepsHaltedAsReset := by
  unfold Obligations.StepKeepsHaltedAsReset
  intro s t hc hs h
  refine step_keeps h hs (fun u hslots hu => ?slot) fun op rest hidle hmove =>
    hostMove_haltedAsReset (haltedAsReset_withInbox hs rest) hidle hmove
  case slot =>
    have hprogram := samePart_trans (slotStep_hostPart hu (p := .program) (by decide))
      (u.frame_afterSlot .program (by decide))
    have hloaded := hprogram.1.trans (hc.slots_running hslots).1
    exact fun hl => Bool.noConfusion (hloaded.symm.trans hl)

/-! ## After reset (R8) -/

theorem coherent_resetWith (font : Font) : (State.resetWith font).coherent :=
  ⟨fun h => absurd rfl h, ⟨fun _ => rfl, fun _ => rfl⟩, fun _ => ⟨rfl, rfl⟩, colorOnDefault_ne,
    Nat.zero_le _, fun _ => rfl⟩

/-- Settles O55: for every font, and the default is one. -/
theorem resetMeetsTheInvariants : Obligations.ResetMeetsTheInvariants := by
  unfold Obligations.ResetMeetsTheInvariants
  have hall : ∀ font : Font, (State.resetWith font).canonical ∧ (State.resetWith font).pcBounded ∧
      (State.resetWith font).coherent ∧ (State.resetWith font).haltedAsReset := fun font =>
    ⟨Memory.wf_resetWith font, pcBounded_of_reset rfl rfl, coherent_resetWith font, fun _ => rfl⟩
  exact ⟨hall defaultFont, hall⟩

end Sys2Proof.Machine
end
